-- ==== Sys2Proof/Word.lean ====
section
/-! DEFINITION. The two word types of the block: a byte and the 32-bit word of ARG and RESULT
(spec/00_scope.md R11). -/

namespace Sys2Proof

/-- A byte: an unsigned 8-bit value (R11). -/
abbrev Byte := BitVec 8

/-- A word: an unsigned 32-bit value (R11), the width of ARG and RESULT (R61). -/
abbrev Word := BitVec 32

end Sys2Proof
end

