-- ==== Sys2Proof/Syntax.lean ====
section
/-! DEFINITION. Commands as the host presents them, and the instructions they decode to: one constructor for each row of
spec/opcode_table.json (spec/30_encoding.md R67). -/

namespace Sys2Proof

/-- One command transaction's inputs: the command byte CMD and the argument word ARG (R61). -/
structure Command where
  cmd : Byte
  arg : Word
deriving DecidableEq, Repr

/-- The nine commands (R67). A command that reads ARG carries the whole ARG word, since which lanes it reads is part
of its meaning (R66); a command that ignores ARG carries nothing. -/
inductive Instr where
  /-- ADDF1, CMD = 0x10: ADD_FIELD of width 1 (R114). -/
  | addf1 (arg : Word)
  /-- ADDF2, CMD = 0x11: ADD_FIELD of width 2 (R115). -/
  | addf2 (arg : Word)
  /-- ADDF4, CMD = 0x12: ADD_FIELD of width 4 (R116). -/
  | addf4 (arg : Word)
  /-- SEND, CMD = 0x20 (R117). -/
  | send
  /-- RECV, CMD = 0x30: RECEIVE (R130). -/
  | recv
  /-- EXTF1, CMD = 0x40: EXTRACT_FIELD of width 1 (R133). -/
  | extf1
  /-- EXTF2, CMD = 0x41: EXTRACT_FIELD of width 2 (R134). -/
  | extf2
  /-- EXTF4, CMD = 0x42: EXTRACT_FIELD of width 4 (R135). -/
  | extf4
  /-- RDREG, CMD = 0x50: READ_REG (R137). -/
  | rdreg (arg : Word)
deriving DecidableEq, Repr

/-- The field widths the block accepts (R9, R64). -/
inductive Width where
  | w1
  | w2
  | w4
deriving DecidableEq, Repr

end Sys2Proof
end

