-- ==== Sys2Proof/WellFormed.lean ====
section
/-! DEFINITION. The commands an assembled line can be: the ARG bits the command does not read are 0
(spec/30_encoding.md R70 to R72). The block itself accepts every ARG (R66, R67), so no meaning and no
decoding asks for this check; the assembler's output meets it. -/

namespace Sys2Proof

/-- ADDF1 reads ARG[7:0]; ARG[31:8] is 0 in an assembled line (R71). -/
def wfAddf1 (arg : Word) : Bool := decide (arg.toNat < 2 ^ 8)

/-- ADDF2 reads ARG[15:0]; ARG[31:16] is 0 in an assembled line (R71). -/
def wfAddf2 (arg : Word) : Bool := decide (arg.toNat < 2 ^ 16)

/-- RDREG reads ARG[7:0]; ARG[31:8] is 0 in an assembled line (R72). -/
def wfRdreg (arg : Word) : Bool := decide (arg.toNat < 2 ^ 8)

/-- The well-formedness check: no set bit of ARG goes unread. ADDF4 reads every bit (R66); the others carry no
operand. -/
def Instr.wf : Instr → Bool
  | .addf1 arg => wfAddf1 arg
  | .addf2 arg => wfAddf2 arg
  | .addf4 _ => true
  | .send => true
  | .recv => true
  | .extf1 => true
  | .extf2 => true
  | .extf4 => true
  | .rdreg arg => wfRdreg arg

end Sys2Proof
end

