-- ==== Sys2Proof/Decode.lean ====
section
/-! DEFINITION. The command decoder (spec/30_encoding.md R62 to R68), total on all 256 values of CMD and rejecting by name,
and the encoder from the same tables (R67, R70). -/

namespace Sys2Proof

/-- Why a CMD value is illegal (R67). -/
inductive DecodeError where
  /-- CMD[3:2] is not 0b00. -/
  | reservedBits
  /-- ADD_FIELD or EXTRACT_FIELD with W = 0b11, or SEND, RECEIVE or READ_REG with W ≠ 0b00. -/
  | reservedWidth
  /-- FUNC is 0x0 or 0x6..0xF. -/
  | reservedFunc
deriving DecidableEq, Repr

/-- FUNC = CMD[7:4] (R62). -/
def funcField (cmd : Byte) : BitVec 4 := cmd.extractLsb' 4 4

/-- RSV = CMD[3:2] (R62). -/
def rsvField (cmd : Byte) : BitVec 2 := cmd.extractLsb' 2 2

/-- W = CMD[1:0] (R62). -/
def widthField (cmd : Byte) : BitVec 2 := cmd.extractLsb' 0 2

/-- The width code table (R64); 0b11 is reserved. -/
def widthOfCode (w : BitVec 2) : Option Width :=
  if w = 0b00#2 then some .w1
  else if w = 0b01#2 then some .w2
  else if w = 0b10#2 then some .w4
  else none

/-- ADD_FIELD of a width (R65, R67). -/
def addFieldInstr (arg : Word) : Width → Instr
  | .w1 => .addf1 arg
  | .w2 => .addf2 arg
  | .w4 => .addf4 arg

/-- EXTRACT_FIELD of a width (R65, R67). -/
def extractFieldInstr : Width → Instr
  | .w1 => .extf1
  | .w2 => .extf2
  | .w4 => .extf4

/-- ADD_FIELD by its width code, or the rejection of the reserved code (R64, R68). -/
def decodeAddField (arg : Word) (w : BitVec 2) : Except DecodeError Instr :=
  match widthOfCode w with
  | some w => .ok (addFieldInstr arg w)
  | none => .error .reservedWidth

/-- EXTRACT_FIELD by its width code, or the rejection of the reserved code (R64, R68). -/
def decodeExtractField (w : BitVec 2) : Except DecodeError Instr :=
  match widthOfCode w with
  | some w => .ok (extractFieldInstr w)
  | none => .error .reservedWidth

/-- A command without a width: W is 0b00 (R68). -/
def decodeNoWidth (i : Instr) (w : BitVec 2) : Except DecodeError Instr :=
  if w = 0b00#2 then .ok i else .error .reservedWidth

/-- Decode_CMD with ARG beside it (R65, R66, R68). -/
def decode (c : Command) : Except DecodeError Instr :=
  if rsvField c.cmd ≠ 0b00#2 then .error .reservedBits
  else if funcField c.cmd = 0x1#4 then decodeAddField c.arg (widthField c.cmd)
  else if funcField c.cmd = 0x4#4 then decodeExtractField (widthField c.cmd)
  else if funcField c.cmd = 0x2#4 then decodeNoWidth .send (widthField c.cmd)
  else if funcField c.cmd = 0x3#4 then decodeNoWidth .recv (widthField c.cmd)
  else if funcField c.cmd = 0x5#4 then decodeNoWidth (.rdreg c.arg) (widthField c.cmd)
  else .error .reservedFunc

/-- The encoder: the command of an instruction, from the table of R67; ARG is 0 where the command ignores it (R70). -/
def encode : Instr → Command
  | .addf1 arg => ⟨0x10, arg⟩
  | .addf2 arg => ⟨0x11, arg⟩
  | .addf4 arg => ⟨0x12, arg⟩
  | .send => ⟨0x20, 0⟩
  | .recv => ⟨0x30, 0⟩
  | .extf1 => ⟨0x40, 0⟩
  | .extf2 => ⟨0x41, 0⟩
  | .extf4 => ⟨0x42, 0⟩
  | .rdreg arg => ⟨0x50, arg⟩

/-- Whether the command reads ARG (R66). -/
def Instr.readsArg : Instr → Bool
  | .addf1 _ => true
  | .addf2 _ => true
  | .addf4 _ => true
  | .send => false
  | .recv => false
  | .extf1 => false
  | .extf2 => false
  | .extf4 => false
  | .rdreg _ => true

/-- The command whose bits are the number `w`: CMD in bits 7:0, as spec/opcode_table.json numbers it, and ARG in bits 39:8.
The spec gives CMD and ARG no common bit numbering (they are two inputs, R61): DESIGN CHOICE, log entry 7; safe. -/
def Command.ofBits (w : Nat) : Command :=
  ⟨BitVec.ofNat 8 w, BitVec.ofNat 32 (w / 2 ^ 8)⟩

/-- The instruction the decoder reads from a transaction whose low `nbits` bits are `w` and whose other bits are 0. -/
def decodeTableWord (nbits w : Nat) : Option Instr :=
  match decode (Command.ofBits (w % 2 ^ nbits)) with
  | .ok i => some i
  | .error _ => none

end Sys2Proof
end

