-- ==== Sys2Proof/Config.lean ====
section
/-! DEFINITION. What construction fixes for one instance: CAP and REV (spec/00_scope.md R6, R7), the values the source fixes
for every instance (R8, R9), the turns of the environment (R13), and the turns that the spec leaves free. -/

namespace Sys2Proof

/-- The construction parameters of an instance. `cap` is CAP, the raw payload capacity in bytes, with
0 ≤ CAP ≤ 252 carried by its type (R6: an instance with CAP > 252 does not exist). `rev` is the strap
REV (R7). -/
structure Config where
  cap : Fin 253
  rev : Bool
deriving DecidableEq, Repr

/-- CAP as a natural number (R6). -/
def Config.capacity (c : Config) : Nat := c.cap.val

/-- RXCAP = CAP + 2, the capacity of the receive buffer (R8). -/
def Config.rxcap (c : Config) : Nat := c.capacity + 2

/-- Construction (spec/70_reset_and_hazards.md R162, R6): refused unless CAP is at most 252. -/
def Config.construct (cap : Nat) (rev : Bool) : Option Config :=
  if h : cap < 253 then some ⟨⟨cap, h⟩, rev⟩ else none

/-- The instance that `State.reset` is: CAP = 8 and REV = 0, the instance of the spec's own test vectors
(spec/95_test_vectors.md). DESIGN CHOICE, log entry 1; unsafe for a statement about `State.reset` alone, so the
statements are about every `Config`. -/
def Config.default : Config := ⟨8, false⟩

/-- The terminator (delimiter) byte (R9). -/
def terminator : Byte := 0#8

/-- One turn of the environment (spec/00_scope.md R13). -/
inductive Turn where
  /-- The host presents a command; it waits while one is in progress (R13). -/
  | issue (c : Command)
  /-- The transport input appends a byte to the tail of TIN (R46). -/
  | arrive (b : Byte)
  /-- The transport output takes the byte at the head of TOUT, if there is one (R47). -/
  | consume
  /-- The host resets the block; reset happens between two commands (R160). -/
  | reset
  /-- The environment lets the block take one step before its next turn (R54). -/
  | block
deriving DecidableEq, Repr, Inhabited

/-- What the environment does once its listed turns are used up (log entry 3). -/
inductive Onward where
  /-- Nothing more: only the block moves. -/
  | quiet
  /-- The same turns again and again, for ever (spec/70_reset_and_hazards.md R166). -/
  | cycle (ts : List Turn)
  /-- The turns number `k` and on of the stream `n` of `Config.freeTurn`, for ever. -/
  | free (n k : Nat)
deriving DecidableEq, Repr

/-- The turns of an environment that the spec leaves free: turn `k` of the stream `n`. It has no body, so each stream stands for
every endless sequence of turns (R13, R46; log entry 3). -/
opaque Config.freeTurn : Nat → Nat → Turn

end Sys2Proof
end

