-- ==== Sys2Proof/Machine/State.lean ====
section
/-! DEFINITION. The state of one instance as plain data (spec/10_state.md R15 to R25), with the transaction registers
(R17), the two transport queues (spec/20_memory.md R46, R47) and the environment's coming turns; the reasons
a step can stop; the state after reset (R29, R160). -/

namespace Sys2Proof.Machine

/-- A buffer's written bytes: (index, byte) pairs, indices strictly rising. An index that is not listed has not been
written since reset and holds no value (R29, R30; log entry 4). -/
abbrev Memory := List Host.Cell

/-- The canonical form: indices strictly rise. No unlisted index reads as a byte, so every entry is needed, and equal
contents are equal lists. -/
abbrev Memory.wf (m : Memory) : Prop := m.Pairwise fun c d => c.1 < d.1

/-- The status codes by name (spec/60_exceptions.md R140); their numbers are `Status.code`. -/
inductive Status where
  | ok
  | incomplete
  | overflow
  | checksumInvalid
  | delivered
  | capacityExceeded
  | noPacket
  | outOfData
  | illegalCommand
deriving DecidableEq, Repr

/-- The state of one instance and of the environment around it. -/
structure State where
  /-- CAP and REV, fixed at construction (R6, R7); no step changes them. -/
  cfg : Config
  /-- CMD of the latest command presented (R17, R61), kept after it has completed (log entry 19). -/
  cmd : Byte
  /-- ARG of the latest command presented (R17, R61), kept after it has completed (log entry 19). -/
  arg : Word
  /-- A command has been presented and has not completed (R13, R61). -/
  busy : Bool
  /-- STATUS of the latest completed command (R17, R63), kept until the next one completes (log entry 19). -/
  status : BitVec 4
  /-- RESULT of the latest completed command (R17, R63), kept until the next one completes (log entry 19). -/
  result : Word
  /-- TXB, the send buffer (R18). -/
  txb : Memory
  /-- TX_LEN, the append cursor (R19). -/
  txLen : BitVec 8
  /-- RXB, the receive buffer (R20). -/
  rxb : Memory
  /-- RX_IDX, the in-progress receive index (R21). -/
  rxIdx : BitVec 8
  /-- RX_OVF, the overflow flag (R22). -/
  rxOvf : Bool
  /-- RX_LEN, the receive length field (R23). -/
  rxLen : BitVec 8
  /-- EXTRACT_POS, the extraction cursor (R24). -/
  extractPos : BitVec 8
  /-- PKT_VALID (R25). -/
  pktValid : Bool
  /-- TIN, the transport input queue, head first (R46). -/
  tin : List Byte
  /-- TOUT, the transport output queue, head first (R47). -/
  tout : List Byte
  /-- The environment's listed turns, next first: the model's own field (log entry 3). -/
  script : List Turn
  /-- What the environment does after them: the model's own field (log entry 3). -/
  onward : Onward
deriving DecidableEq, Repr

/-- Why the model stops. The block itself has no fault state (R149); both faults stand for what the spec says never
happens, and no state that meets `Sys2Proof.StateInv` reaches either. -/
inductive Fault where
  /-- An access outside TXB 0..CAP-1 or RXB 0..RXCAP-1, which no rule forms (R44). Raised by `memRead` and
  `memWrite`. Safe: the model stops where the spec gives nothing (log entry 5). -/
  | bufferIndex
  /-- A read of a buffer byte that nothing has written since reset, whose contents the spec leaves unspecified and calls
  never observable (R29, R30). Raised by `memRead`. Safe: no value is invented (log entry 4). -/
  | unwrittenByte
deriving DecidableEq, Repr

/-- Why an instruction has no meaning in the model. -/
inductive Refusal where
  /-- An instruction of the table without a meaning yet, by its mnemonic: raised by an arm of `exec` alone. Safe. No arm
  of this model raises it. -/
  | notModelled (mnemonic : String)
deriving DecidableEq, Repr

/-- The outcome of a step of this machine. -/
abbrev Result := Host.Outcome State Fault Refusal

/-- An instance right after construction and reset (R162, R29, R160): every cursor and flag 0, no buffer byte
with a value. The transaction registers hold nothing across commands (R17): DESIGN CHOICE 0, log entry 2. TIN, TOUT
and the environment's listed turns are empty and nothing follows them: DESIGN CHOICE, log entry 3. -/
def State.resetOf (cfg : Config) : State where
  cfg := cfg
  cmd := 0
  arg := 0
  busy := false
  status := 0
  result := 0
  txb := []
  txLen := 0
  rxb := []
  rxIdx := 0
  rxOvf := false
  rxLen := 0
  extractPos := 0
  pktValid := false
  tin := []
  tout := []
  script := []
  onward := .quiet

/-- The machine right after reset, for the instance `Config.default` (log entry 1). -/
def State.reset : State := State.resetOf Config.default

end Sys2Proof.Machine
end

