-- ==== Sys2Proof/Machine/Ops.lean ====
section
/-! DEFINITION. The named operations over the buffers and the registers: one byte, a run of bytes, the checked accesses
MemRead and MemWrite (spec/00_scope.md R12), the named updates of State, and the completion of a command: respond, and
raise, the block's only form of exception (R12, spec/60_exceptions.md R141, R149: nothing is saved, no mode changes,
no vector is taken, and there is no return from one). -/

namespace Sys2Proof.Machine

/-- What an index that nothing has written reads as: no value (R29, R30). DESIGN CHOICE, log entry 4; safe. -/
def Memory.unlisted : Option Byte := none

/-- The byte at an index. -/
def Memory.read : Memory → Nat → Option Byte
  | [], _ => Memory.unlisted
  | c :: rest, a => if c.1 = a then some c.2 else Memory.read rest a

/-- A buffer with one byte written, in canonical form. -/
def Memory.write : Memory → Nat → Byte → Memory
  | [], a, b => [(a, b)]
  | c :: rest, a, b =>
    if a < c.1 then (a, b) :: c :: rest
    else if a = c.1 then (a, b) :: rest
    else c :: Memory.write rest a b

/-- The `n` bytes from an index up, if every one has a value. -/
def Memory.readBytes (m : Memory) (a : Nat) : Nat → Option (List Byte)
  | 0 => some []
  | n + 1 =>
    match m.read a, Memory.readBytes m (a + 1) n with
    | some b, some bs => some (b :: bs)
    | _, _ => none

/-- A buffer with a run of bytes written from an index up. -/
def Memory.writeBytes (m : Memory) (a : Nat) : List Byte → Memory
  | [] => m
  | b :: bs => Memory.writeBytes (m.write a b) (a + 1) bs

/-- MemRead(S:a, n) on a buffer of `size` bytes (R12). -/
def memRead (m : Memory) (size a n : Nat) : Except Fault (List Byte) :=
  if a + n ≤ size then
    match m.readBytes a n with
    | some bs => .ok bs
    | none => .error .unwrittenByte
  else .error .bufferIndex

/-- MemWrite(S:a, n, s) on a buffer of `size` bytes (R12). -/
def memWrite (m : Memory) (size a : Nat) (bs : List Byte) : Except Fault Memory :=
  if a + bs.length ≤ size then .ok (m.writeBytes a bs) else .error .bufferIndex

/-- Go on with an access's result, or stop with its fault. -/
def orFault {α : Type} (r : Except Fault α) (k : α → Result) : Result :=
  match r with
  | .ok x => k x
  | .error f => .fault f

/-- The number of a status (R140). -/
def Status.code : Status → BitVec 4
  | .ok => 0x0
  | .incomplete => 0x1
  | .overflow => 0x2
  | .checksumInvalid => 0x3
  | .delivered => 0x4
  | .capacityExceeded => 0x5
  | .noPacket => 0x6
  | .outOfData => 0x7
  | .illegalCommand => 0x8

/-- Complete the command in progress with a status and a result (R12 `respond`). -/
def State.respond (s : State) (st : Status) (v : Word) : State :=
  { s with status := st.code, result := v, busy := false }

/-- Complete the command in progress with a raised status, result 0 and nothing else changed (R12 `raise`, R141). -/
def State.raise (s : State) (st : Status) : State := s.respond st 0

/-- Write TXB and TX_LEN. A cursor is 8 bits and its arithmetic is exact (R10, R11): the value is below 256 wherever a rule
writes it (log entry 9). -/
def State.setTx (s : State) (m : Memory) (n : Nat) : State :=
  { s with txb := m, txLen := BitVec.ofNat 8 n }

/-- Append to TOUT as one write (R47). -/
def State.emit (s : State) (bs : List Byte) : State := { s with tout := s.tout ++ bs }

/-- The first three effects of the micro-step (R124): a byte has left TIN, PKT_VALID is 0, RXB is `m`. -/
def State.takeByte (s : State) (rest : List Byte) (m : Memory) : State :=
  { s with tin := rest, pktValid := false, rxb := m }

/-- Write RX_IDX (R21). -/
def State.setRxIdx (s : State) (n : Nat) : State := { s with rxIdx := BitVec.ofNat 8 n }

/-- Write RX_OVF (R22). -/
def State.setRxOvf (s : State) (b : Bool) : State := { s with rxOvf := b }

/-- Write RX_LEN (R23). -/
def State.setRxLen (s : State) (n : Nat) : State := { s with rxLen := BitVec.ofNat 8 n }

/-- Write RXB (R20). -/
def State.setRxb (s : State) (m : Memory) : State := { s with rxb := m }

/-- Dispatch a validated packet of `n` payload bytes: the three writes of R129. -/
def State.deliver (s : State) (n : Nat) : State :=
  { s with rxLen := BitVec.ofNat 8 n, extractPos := 0, pktValid := true }

/-- Write EXTRACT_POS (R24). -/
def State.setExtractPos (s : State) (n : Nat) : State := { s with extractPos := BitVec.ofNat 8 n }

/-- The host presents a command: CMD and ARG take it and a command is in progress (R61). STATUS and RESULT keep the last
response until this command completes, and CMD and ARG stay after that: R17 lets none of the four hold a value across
commands and leaves open what they show there. DESIGN CHOICE, log entry 19; unsafe. -/
def State.present (s : State) (c : Command) : State := { s with cmd := c.cmd, arg := c.arg, busy := true }

/-- Write TIN (R46). -/
def State.setTin (s : State) (bs : List Byte) : State := { s with tin := bs }

/-- Write TOUT (R47). -/
def State.setTout (s : State) (bs : List Byte) : State := { s with tout := bs }

/-- Write the environment's listed turns. -/
def State.setScript (s : State) (ts : List Turn) : State := { s with script := ts }

/-- Write what the environment does after its listed turns. -/
def State.setOnward (s : State) (o : Onward) : State := { s with onward := o }

/-- Reset (R160): every item of R15 takes its reset value; CAP, REV, TIN, TOUT and the environment's turns stay (R161,
R162). The transaction registers go to their values at reset: DESIGN CHOICE, log entry 2. -/
def State.afterReset (s : State) : State :=
  { State.resetOf s.cfg with tin := s.tin, tout := s.tout, script := s.script, onward := s.onward }

end Sys2Proof.Machine
end

