-- ==== Sys2Proof/Machine/Operands.lean ====
section
/-! DEFINITION. The operand forms: field widths, the lanes of ARG and RESULT as host-memory images
(spec/20_memory.md R49, spec/30_encoding.md R64, R66), and READ_REG's register number. -/

namespace Sys2Proof.Machine

/-- The width of a field in bytes (R64). -/
def widthBytes : Width → Nat
  | .w1 => 1
  | .w2 => 2
  | .w4 => 4

/-- Lane k of a word: bits 8k+7 down to 8k (R49). -/
def lane (v : Word) (k : Nat) : Byte := v.extractLsb' (8 * k) 8

/-- A field's host-memory image from ARG: its lanes 0..w-1 (R66); the upper lanes are not read. -/
def argImage (w : Width) (arg : Word) : List Byte :=
  match w with
  | .w1 => [lane arg 0]
  | .w2 => [lane arg 0, lane arg 1]
  | .w4 => [lane arg 0, lane arg 1, lane arg 2, lane arg 3]

/-- The word whose lane k is byte k of an image, and 0 above (R49, R132): never sign-extended. -/
def ofLanes : List Byte → Word
  | [] => 0
  | b :: bs => (ofLanes bs <<< 8) ||| b.setWidth 32

/-- READ_REG's register number: ARG[7:0] (R66, R137). -/
def regNumber (arg : Word) : Nat := (lane arg 0).toNat

end Sys2Proof.Machine
end

