-- ==== Sys2Proof/Machine/Endian.lean ====
section
/-! DEFINITION. The endian reverser, a pure function of REV, the width and the image (spec/42_endian.md R107). -/

namespace Sys2Proof.Machine

/-- Rev_w(img) (R107): REV = 1 reverses a 2-byte and a 4-byte image; anything else passes. -/
def reverseField (rev : Bool) (w : Width) (img : List Byte) : List Byte :=
  match w with
  | .w1 => img
  | .w2 => if rev then img.reverse else img
  | .w4 => if rev then img.reverse else img

end Sys2Proof.Machine
end

