-- ==== Sys2Proof/Machine/Extract.lean ====
section
/-! DEFINITION. Typed field extraction: EXTF1, EXTF2 and EXTF4 (spec/44_receive.md R132 to R135). -/

namespace Sys2Proof.Machine

/-- EXTRACT_FIELD of width w (R132). -/
def extractField (w : Width) (s : State) : Result :=
  let p := s.extractPos.toNat
  if s.pktValid = false then .next (s.raise .noPacket)
  else if p + widthBytes w > s.rxLen.toNat then .next (s.raise .outOfData)
  else
    orFault (memRead s.rxb s.cfg.rxcap p (widthBytes w)) fun bs =>
      .next ((s.setExtractPos (p + widthBytes w)).respond .ok (ofLanes (reverseField s.cfg.rev w bs)))

/-- EXTF1 (R133). -/
def execExtf1 (s : State) : Result := extractField .w1 s

/-- EXTF2 (R134). -/
def execExtf2 (s : State) : Result := extractField .w2 s

/-- EXTF4 (R135). -/
def execExtf4 (s : State) : Result := extractField .w4 s

end Sys2Proof.Machine
end

