-- ==== Sys2Proof/Machine/Checksum.lean ====
section
/-! DEFINITION. The 8-bit additive checksum: Checksum and Validate as pure functions (spec/41_checksum.md R100, R102). -/

namespace Sys2Proof.Machine

/-- The accumulator loop of Checksum (R100): each byte is added mod 256. -/
def checksumFrom (acc : Byte) : List Byte → Byte
  | [] => acc
  | b :: bs => checksumFrom (acc + b) bs

/-- Checksum(s) (R100). -/
def checksum (s : List Byte) : Byte := checksumFrom 0 s

/-- Validate(s) for len(s) ≥ 1 (R102). On the empty sequence, which the block never forms (R126), it is false
(log entry 10). -/
def validate (s : List Byte) : Bool :=
  match s.getLast? with
  | some c => decide (checksum s.dropLast = c)
  | none => false

end Sys2Proof.Machine
end

