-- ==== Sys2Proof/Machine/Codec.lean ====
section
/-! DEFINITION. The byte-stuffing codec: Encode and Decode as pure functions of byte sequences (spec/40_codec.md
R84, R88). -/

namespace Sys2Proof.Machine

/-- The loop of Encode (R84) from input index `i` on: `bs` is the open block-length position and `out` the output so far. -/
def encodeLoop : List Byte → (i bs : Nat) → (out : List Byte) → Nat × List Byte
  | [], _, bs, out => (bs, out)
  | b :: rest, i, bs, out =>
    let out := out.set (i + 1) b
    if b = 0#8 then
      encodeLoop rest (i + 1) (i + 1) (out.set bs (BitVec.ofNat 8 (i + 1 - bs)))
    else
      encodeLoop rest (i + 1) bs out

/-- Encode(raw) (R84). Within the block len(raw) ≤ CAP ≤ 252, so every distance is a byte; on a longer sequence, which no
rule forms, a distance is taken mod 256 (log entry 10). -/
def encodeFrame (raw : List Byte) : List Byte :=
  let n := raw.length
  let (bs, out) := encodeLoop raw 0 0 (List.replicate (n + 2) 0#8)
  (out.set bs (BitVec.ofNat 8 (n + 1 - bs))).set (n + 1) terminator

/-- The loop of Decode (R88) over the bytes after the first and before the terminator: `rem` is the 8-bit counter of
the bytes remaining in the block, decremented mod 256. -/
def decodeLoop (rem : Byte) : List Byte → List Byte
  | [] => []
  | e :: es =>
    if rem - 1 = 0#8 then 0#8 :: decodeLoop e es else e :: decodeLoop (rem - 1) es

/-- Decode(enc) (R88), for len(enc) ≥ 2; the last byte is never read. On the empty sequence, which no rule forms, it is
empty (log entry 10). No structural check is made (R89). -/
def decodeFrame : List Byte → List Byte
  | [] => []
  | e :: es => decodeLoop e es.dropLast

end Sys2Proof.Machine
end

