-- ==== Sys2Proof/Machine/Flags.lean ====
section
/-! DEFINITION. The two flags RX_OVF and PKT_VALID as READ_REG shows them (spec/10_state.md R28), and the receive state
they and RX_IDX stand for (R27). -/

namespace Sys2Proof.Machine

/-- FLAGS: PKT_VALID above RX_OVF, and zeros above both (R28, R138). -/
def flagsWord (s : State) : Word := (BitVec.ofBool s.pktValid ++ BitVec.ofBool s.rxOvf).setWidth 32

/-- The receive states that are visible between commands (R27); FrameComplete lasts only inside a micro-step. -/
inductive RxPhase where
  | filling
  | overflow
  | dispatched
deriving DecidableEq, Repr

/-- The receive state of a state (R27). The table's three conditions exclude each other where R31(d) holds; elsewhere
overflow is read first. -/
def rxPhase (s : State) : RxPhase :=
  if s.rxOvf then .overflow else if s.pktValid then .dispatched else .filling

end Sys2Proof.Machine
end

