-- ==== Sys2Proof/Machine/Receive.lean ====
section
/-! DEFINITION. The receive path: the micro-step, frame completion and RECV (spec/44_receive.md R124 to R130). -/

namespace Sys2Proof.Machine

/-- FinishFrame(L) (R125 to R129), on the state in which RX_LEN = L and RX_IDX = 0. The value `raw` is the scratch buffer
SCR (spec/10_state.md R26). -/
def finishFrame (l : Nat) (s : State) : Except Fault (State × Status) :=
  if s.rxOvf then .ok (s.setRxOvf false, .overflow)
  else if l < 3 then .ok (s, .checksumInvalid)
  else
    match memRead s.rxb s.cfg.rxcap 0 l with
    | .error f => .error f
    | .ok enc =>
      let raw := decodeFrame enc
      match memWrite s.rxb s.cfg.rxcap 0 raw with
      | .error f => .error f
      | .ok m =>
        let t := (s.setRxb m).setRxLen (l - 2)
        if validate raw then .ok (t.deliver (l - 3), .delivered) else .ok (t, .checksumInvalid)

/-- RxStep (R124) on the byte `b` at TIN's head, `rest` behind it: the state after it, and the frame's outcome when `b` was
a terminator. -/
def rxStep (b : Byte) (rest : List Byte) (s : State) : Except Fault (State × Option Status) :=
  let i := s.rxIdx.toNat
  match memWrite s.rxb s.cfg.rxcap i [b] with
  | .error f => .error f
  | .ok m =>
    let t := s.takeByte rest m
    if b = terminator then
      match finishFrame (i + 1) ((t.setRxLen (i + 1)).setRxIdx 0) with
      | .error f => .error f
      | .ok (u, st) => .ok (u, some st)
    else if i < s.cfg.rxcap - 1 then .ok (t.setRxIdx (i + 1), none)
    else .ok (t.setRxOvf true, none)

/-- How RECEIVE completes with the outcome of a frame (R130): the payload length when it was delivered, 0 otherwise. -/
def completeRecv (t : State) (st : Status) : State :=
  match st with
  | .delivered => t.respond .delivered (t.rxLen.setWidth 32)
  | _ => t.respond st 0

/-- RECV (R130): ONE iteration of its loop, which is one atomic step (spec/20_memory.md R54). The command stays in
progress until TIN is empty or a frame completes, and the block's next step is its next iteration (log entry 6). -/
def execRecv (s : State) : Result :=
  match s.tin with
  | [] => .next (s.respond .incomplete 0)
  | b :: rest =>
    match rxStep b rest s with
    | .error f => .fault f
    | .ok (t, none) => .next t
    | .ok (t, some st) => .next (completeRecv t st)

end Sys2Proof.Machine
end

