-- ==== Sys2Proof/Machine/Send.lean ====
section
/-! DEFINITION. The send path: ADDF1, ADDF2, ADDF4 and SEND (spec/43_send.md R113 to R117). -/

namespace Sys2Proof.Machine

/-- ADD_FIELD of width w (R113). -/
def addField (w : Width) (arg : Word) (s : State) : Result :=
  let n := s.txLen.toNat
  if n + widthBytes w + 1 > s.cfg.capacity then .next (s.raise .capacityExceeded)
  else
    orFault (memWrite s.txb s.cfg.capacity n (reverseField s.cfg.rev w (argImage w arg))) fun m =>
      .next ((s.setTx m (n + widthBytes w)).respond .ok 0)

/-- ADDF1 (R114). -/
def execAddf1 (arg : Word) (s : State) : Result := addField .w1 arg s

/-- ADDF2 (R115). -/
def execAddf2 (arg : Word) (s : State) : Result := addField .w2 arg s

/-- ADDF4 (R116). -/
def execAddf4 (arg : Word) (s : State) : Result := addField .w4 arg s

/-- SEND (R117). -/
def execSend (s : State) : Result :=
  let n := s.txLen.toNat
  if n + 1 > s.cfg.capacity then .next (s.raise .capacityExceeded)
  else
    orFault (memRead s.txb s.cfg.capacity 0 n) fun fields =>
    orFault (memWrite s.txb s.cfg.capacity n [checksum fields]) fun m =>
    orFault (memRead m s.cfg.capacity 0 (n + 1)) fun raw =>
      .next (((s.setTx m 0).emit (encodeFrame raw)).respond .ok (BitVec.ofNat 32 (n + 3)))

end Sys2Proof.Machine
end

