-- ==== Sys2Proof/Machine/System.lean ====
section
/-! DEFINITION. Register readout, RDREG (spec/45_register_access.md R137, R138), and the illegal command
(spec/60_exceptions.md R145). -/

namespace Sys2Proof.Machine

/-- CONFIG: eight zero bits, RXCAP, seven zero bits, REV, CAP, from bit 31 down (R28, R138). -/
def configWord (c : Config) : Word :=
  0#8 ++ BitVec.ofNat 8 c.rxcap ++ 0#7 ++ BitVec.ofBool c.rev ++ BitVec.ofNat 8 c.capacity

/-- RegValue(r) (R138); none for an unassigned number (R28). -/
def regValue (s : State) (r : Nat) : Option Word :=
  match r with
  | 0 => some (configWord s.cfg)
  | 1 => some (s.txLen.setWidth 32)
  | 2 => some (s.rxIdx.setWidth 32)
  | 3 => some (s.rxLen.setWidth 32)
  | 4 => some (s.extractPos.setWidth 32)
  | 5 => some (flagsWord s)
  | _ => none

/-- RDREG (R137). -/
def execRdreg (arg : Word) (s : State) : Result :=
  match regValue s (regNumber arg) with
  | some v => .next (s.respond .ok v)
  | none => .next (s.raise .illegalCommand)

/-- An illegal CMD value: the decoder raises ILLEGAL_COMMAND before any operation begins (R67, R145). -/
def execIllegal (s : State) : Result := .next (s.raise .illegalCommand)

end Sys2Proof.Machine
end

