-- ==== Sys2Proof/Machine/Dispatch.lean ====
section
/-! DEFINITION. The meaning of every instruction: one arm per constructor of Instr, each a direct call of its own definition. -/

namespace Sys2Proof.Machine

def exec (i : Instr) (s : State) : Host.Outcome State Fault Refusal :=
  match i with
  | .addf1 arg => Sys2Proof.Machine.execAddf1 arg s
  | .addf2 arg => Sys2Proof.Machine.execAddf2 arg s
  | .addf4 arg => Sys2Proof.Machine.execAddf4 arg s
  | .send => Sys2Proof.Machine.execSend s
  | .recv => Sys2Proof.Machine.execRecv s
  | .extf1 => Sys2Proof.Machine.execExtf1 s
  | .extf2 => Sys2Proof.Machine.execExtf2 s
  | .extf4 => Sys2Proof.Machine.execExtf4 s
  | .rdreg arg => Sys2Proof.Machine.execRdreg arg s

end Sys2Proof.Machine
end

