-- ==== Sys2Proof/Machine/Block.lean ====
section
/-! DEFINITION. One step of the block and one turn of the environment around it (spec/00_scope.md R13,
spec/20_memory.md R46, R47, R54, spec/70_reset_and_hazards.md R160, R161). -/

namespace Sys2Proof.Machine

/-- The command on the inputs CMD and ARG (R61). -/
def presented (s : State) : Command := ⟨s.cmd, s.arg⟩

/-- One step of the block: it decodes the command in progress and executes it, or raises ILLEGAL_COMMAND (R67, R145). With
no command in progress the block does nothing (R148: it has no activity of its own; log entry 12). -/
def blockStep (s : State) : Result :=
  if s.busy then
    match decode (presented s) with
    | .ok i => exec i s
    | .error _ => execIllegal s
  else .next s

/-- The transport output takes the head of TOUT (R47). -/
def consumeOut (s : State) : State := s.setTout s.tout.tail

/-- The environment's next turn and the state once it is taken: the first listed turn; with none left, the first of the
cycle, whose rest is listed then, or the next free one (log entry 3). -/
def State.pending (s : State) : Option (Turn × State) :=
  match s.script with
  | t :: rest => some (t, s.setScript rest)
  | [] =>
    match s.onward with
    | .quiet => none
    | .cycle [] => none
    | .cycle (t :: rest) => some (t, s.setScript rest)
    | .free n k => some (Config.freeTurn n k, s.setOnward (.free n (k + 1)))

/-- One turn: the environment's next turn if it can be taken, otherwise the block's step. The host waits with a command or
a reset while a command is in progress (R13, R160), and the block steps meanwhile; when the environment has no turn,
only the block steps. -/
def turn (s : State) : Result :=
  match s.pending with
  | none => blockStep s
  | some (.issue c, u) => if s.busy then blockStep s else .next (u.present c)
  | some (.reset, u) => if s.busy then blockStep s else .next u.afterReset
  | some (.arrive b, u) => .next (u.setTin (u.tin ++ [b]))
  | some (.consume, u) => .next (consumeOut u)
  | some (.block, u) => blockStep u

end Sys2Proof.Machine
end

