-- ==== Sys2Proof/Machine/Step.lean ====
section
/-! DEFINITION. One step of the machine, and the placing of a command as the next one it runs. -/

namespace Sys2Proof.Machine

/-- One step: the environment's next turn or the block's step (`turn`). -/
def step (s : State) : Host.Outcome State Fault Refusal := turn s

/-- The state with a command on CMD and ARG and the block to move next. The block fetches nothing (spec/10_state.md R16): the
host presents its commands, and this stands for that (log entry 7). -/
def State.withFetchWord (s : State) (nbits w : Nat) : State :=
  (s.present (Command.ofBits (w % 2 ^ nbits))).setScript (.block :: s.script)

end Sys2Proof.Machine
end

