-- ==== Sys2Proof/Machine/Assembler.lean ====
section
/-! DEFINITION. The assembly syntax (spec/30_encoding.md R70 to R72): one line to one command, and the written form of a
command's encoding. A line is a list of characters. -/

namespace Sys2Proof.Machine

/-- What a line assembles to. -/
inductive AsmResult where
  /-- Nothing but spaces and a comment. -/
  | blank
  /-- One command. -/
  | command (i : Instr)
  /-- Not a line of the syntax, or an operand out of range (R71, R72). -/
  | refused
deriving DecidableEq, Repr

/-- Spaces and tabs part the words of a line: DESIGN CHOICE, log entry 11. -/
def isBlankChar (c : Char) : Bool := c = ' ' || c = '\t'

/-- The line without its comment: a `;` runs to the end of the line (R70). -/
def stripComment (line : List Char) : List Char := line.takeWhile fun c => c ≠ ';'

/-- A word in front of the words behind it, unless it is empty. -/
def pushWord (w : List Char) (ws : List (List Char)) : List (List Char) :=
  match w with
  | [] => ws
  | _ => w :: ws

/-- The word being read and the words behind it. -/
def splitWords : List Char → List Char × List (List Char)
  | [] => ([], [])
  | c :: cs =>
    let (w, ws) := splitWords cs
    if isBlankChar c then ([], pushWord w ws) else (c :: w, ws)

/-- The words of a line. -/
def lineWords (line : List Char) : List (List Char) :=
  let (w, ws) := splitWords (stripComment line)
  pushWord w ws

/-- Mnemonics are case-insensitive (R70): a letter in upper case. -/
def upperChar (c : Char) : Char := if 'a' ≤ c ∧ c ≤ 'z' then Char.ofNat (c.toNat - 32) else c

/-- The value of a decimal digit. -/
def decDigit (c : Char) : Option Nat := if '0' ≤ c ∧ c ≤ '9' then some (c.toNat - 48) else none

/-- The value of a hexadecimal digit, in either case: DESIGN CHOICE, log entry 11. -/
def hexDigit (c : Char) : Option Nat :=
  if '0' ≤ c ∧ c ≤ '9' then some (c.toNat - 48)
  else if 'A' ≤ upperChar c ∧ upperChar c ≤ 'F' then some ((upperChar c).toNat - 55)
  else none

/-- The digits of a base-10 number, most significant first. -/
def decDigits (acc : Nat) : List Char → Option Nat
  | [] => some acc
  | c :: cs =>
    match decDigit c with
    | some d => decDigits (acc * 10 + d) cs
    | none => none

/-- The digits of a base-16 number, most significant first. -/
def hexDigits (acc : Nat) : List Char → Option Nat
  | [] => some acc
  | c :: cs =>
    match hexDigit c with
    | some d => hexDigits (acc * 16 + d) cs
    | none => none

/-- A literal without its sign: decimal, or hex with `0x` (R71). -/
def natLiteral : List Char → Option Nat
  | [] => none
  | '0' :: 'x' :: c :: cs => hexDigits 0 (c :: cs)
  | c :: cs => decDigits 0 (c :: cs)

/-- A literal: a sign may stand before it (R71). -/
def intLiteral : List Char → Option Int
  | '-' :: cs => (natLiteral cs).map fun n => -(n : Int)
  | cs => (natLiteral cs).map fun n => (n : Int)

/-- The ARG word of `ADDFn v` for a field of `n` bytes (R71); none outside the accepted range. -/
def operandWord (n : Nat) (v : Int) : Option Word :=
  if 0 ≤ v ∧ v ≤ 2 ^ (8 * n) - 1 then some (BitVec.ofInt 32 v)
  else if -(2 ^ (8 * n - 1)) ≤ v ∧ v ≤ -1 then some (BitVec.ofInt 32 (v + 2 ^ (8 * n)))
  else none

/-- The register names of RDREG (R72). -/
def registerName (w : List Char) : Option Nat :=
  if w = "CONFIG".toList then some 0
  else if w = "TX_LEN".toList then some 1
  else if w = "RX_IDX".toList then some 2
  else if w = "RX_LEN".toList then some 3
  else if w = "EXTRACT_POS".toList then some 4
  else if w = "FLAGS".toList then some 5
  else none

/-- The operand of `RDREG r`: a register name or a number 0..255 (R72). -/
def registerOperand (w : List Char) : Option Nat :=
  match registerName w with
  | some r => some r
  | none =>
    match natLiteral w with
    | some r => if r ≤ 255 then some r else none
    | none => none

/-- The commands without an operand (R70). -/
def assembleBare (m : List Char) : AsmResult :=
  if m = "SEND".toList then .command .send
  else if m = "RECV".toList then .command .recv
  else if m = "EXTF1".toList then .command .extf1
  else if m = "EXTF2".toList then .command .extf2
  else if m = "EXTF4".toList then .command .extf4
  else .refused

/-- `ADDFn v`: the field append of a width, if the literal is in range (R71). -/
def assembleAdd (n : Nat) (make : Word → Instr) (operand : List Char) : AsmResult :=
  match intLiteral operand with
  | none => .refused
  | some v =>
    match operandWord n v with
    | some arg => .command (make arg)
    | none => .refused

/-- The commands with one operand (R70 to R72). -/
def assembleWith (m operand : List Char) : AsmResult :=
  if m = "ADDF1".toList then assembleAdd 1 .addf1 operand
  else if m = "ADDF2".toList then assembleAdd 2 .addf2 operand
  else if m = "ADDF4".toList then assembleAdd 4 .addf4 operand
  else if m = "RDREG".toList then
    match registerOperand operand with
    | some r => .command (.rdreg (BitVec.ofNat 32 r))
    | none => .refused
  else .refused

/-- One line of assembly (R70): a mnemonic and at most one operand. -/
def assemble (line : List Char) : AsmResult :=
  match lineWords line with
  | [] => .blank
  | [m] => assembleBare (m.map upperChar)
  | [m, operand] => assembleWith (m.map upperChar) operand
  | _ => .refused

/-- A hexadecimal digit as a character. -/
def hexChar (d : Nat) : Char := if d < 10 then Char.ofNat (48 + d) else Char.ofNat (55 + d)

/-- The `k` low hexadecimal digits of a number, most significant first. -/
def hexText : (k v : Nat) → List Char
  | 0, _ => []
  | k + 1, v => hexText k (v / 16) ++ [hexChar (v % 16)]

/-- The encoding of a line as it is written: CMD=0xHH ARG=0xHHHHHHHH (R70). -/
def encodingText (c : Command) : List Char :=
  "CMD=0x".toList ++ hexText 2 c.cmd.toNat ++ " ARG=0x".toList ++ hexText 8 c.arg.toNat

end Sys2Proof.Machine
end

