-- ==== Sys2Proof/Machine/Instances.lean ====
section
/-! DEFINITION. Several instances: the product of independent single-instance machines, each with its own queues and
environment (spec/60_exceptions.md R151; spec/20_memory.md R45, R59). -/

namespace Sys2Proof.Machine

/-- Instance `k` of a system takes one step; a number that names no instance changes nothing. -/
def stepAt (k : Nat) (sys : List State) : Host.Outcome (List State) Fault Refusal :=
  match sys[k]? with
  | none => .next sys
  | some s =>
    match step s with
    | .next t => .next (sys.set k t)
    | .fault f => .fault f
    | .refused r => .refused r

end Sys2Proof.Machine
end

