-- ==== Sys2Proof/Safety.lean ====
section
/-! DEFINITION. What a safe state is: the invariants of spec/10_state.md R31 and R25 and of spec/40_codec.md R90, and the terms
in which claims about whole frames and packets are stated (spec/40_codec.md R85, R92; spec/43_send.md R118;
spec/44_receive.md R136). -/

namespace Sys2Proof

open Sys2Proof.Machine

/-- The invariant of every reachable state: clauses (a) to (f) of R31, no cursor past the bytes written (R30), the buffers
canonical and inside their sizes (R44), and STATUS one of the produced codes (R140). -/
structure StateInv (s : State) : Prop where
  /-- TXB is canonical. -/
  txWf : s.txb.wf
  /-- TXB holds indices 0..CAP-1 only (R44). -/
  txInside : ∀ c ∈ s.txb, c.1 < s.cfg.capacity
  /-- The bytes TXB[0..TX_LEN) were written (R30). -/
  txWritten : ∀ a, a < s.txLen.toNat → (s.txb.read a).isSome = true
  /-- R31(a): TX_LEN ≤ CAP - 1 if CAP ≥ 1, and TX_LEN = 0 if CAP = 0. -/
  txCursor : (1 ≤ s.cfg.capacity → s.txLen.toNat ≤ s.cfg.capacity - 1) ∧ (s.cfg.capacity = 0 → s.txLen.toNat = 0)
  /-- RXB is canonical. -/
  rxWf : s.rxb.wf
  /-- RXB holds indices 0..RXCAP-1 only (R44). -/
  rxInside : ∀ c ∈ s.rxb, c.1 < s.cfg.rxcap
  /-- The bytes RXB[0..RX_IDX) were written (R30). -/
  rxWritten : ∀ a, a < s.rxIdx.toNat → (s.rxb.read a).isSome = true
  /-- The payload RXB[0..RX_LEN) of a delivered packet was written (R30). -/
  rxPayload : s.pktValid = true → ∀ a, a < s.rxLen.toNat → (s.rxb.read a).isSome = true
  /-- R31(b). -/
  rxCursor : s.rxIdx.toNat ≤ s.cfg.rxcap - 1
  /-- R31(c). -/
  rxOverflow : s.rxOvf = true → s.rxIdx.toNat = s.cfg.rxcap - 1
  /-- R31(d); RX_LEN ≤ CAP - 1 is written RX_LEN + 1 ≤ CAP, since no packet exists when CAP = 0. -/
  packet : s.pktValid = true → s.rxOvf = false ∧ s.rxIdx.toNat = 0 ∧ s.rxLen.toNat + 1 ≤ s.cfg.capacity ∧
    s.extractPos.toNat ≤ s.rxLen.toNat
  /-- R31(e). -/
  rxLength : s.rxLen.toNat ≤ s.cfg.rxcap
  /-- R31(f). -/
  extractCursor : (1 ≤ s.cfg.capacity → s.extractPos.toNat ≤ s.cfg.capacity - 1) ∧
    (s.cfg.capacity = 0 → s.extractPos.toNat = 0)
  /-- The codes 0x9..0xF are never produced (R140). -/
  statusKnown : s.status.toNat ≤ 8

/-- No byte of the frame being received is 0x00 (R90, R93): RXB[0..RX_IDX) holds no terminator. -/
def FrameZeroFree (s : State) : Prop := ∀ a, a < s.rxIdx.toNat → s.rxb.read a ≠ some terminator

/-- PKT_VALID = 1 only while RXB holds a payload of RX_LEN bytes with its checksum byte behind it (R25). -/
def PacketValidated (s : State) : Prop :=
  s.pktValid = true → ∃ bs, s.rxb.readBytes 0 (s.rxLen.toNat + 1) = some bs ∧ validate bs = true

/-- A position of Encode's output that holds a block-length byte (R85(c)): 0, and i+1 for every raw zero at i. -/
def IsMarker (raw : List Byte) (p : Nat) : Prop := p = 0 ∨ ∃ i, p = i + 1 ∧ raw[i]? = some 0#8

/-- The block-length chain of `f` from position `p` lands exactly on the last position of `f` (R92(iii)). -/
inductive ChainLands (f : List Byte) : Nat → Prop where
  | last (p : Nat) : p + 1 = f.length → ChainLands f p
  | hop (p : Nat) (v : Byte) : p + 1 < f.length → f[p]? = some v → ChainLands f (p + v.toNat) → ChainLands f p

/-- A well-formed frame (R92). -/
def WellFormedFrame (f : List Byte) : Prop :=
  2 ≤ f.length ∧ f.length ≤ 254 ∧ f[f.length - 1]? = some terminator ∧
    (∀ j, j < f.length - 1 → f[j]? ≠ some terminator) ∧ ChainLands f 0

/-- One bit of one byte of a sequence flipped (R103). -/
def flipBit (s : List Byte) (i k : Nat) : List Byte :=
  s.modify i fun b => b ^^^ BitVec.ofNat 8 (2 ^ k)

/-- A field as the host appends it: a width and an ARG word whose low lanes are its image (R118). -/
abbrev TypedField := Width × Word

/-- The payload bytes of a sequence of fields: P of R118. -/
def payloadOf (rev : Bool) (fs : List TypedField) : List Byte :=
  fs.flatMap fun f => reverseField rev f.1 (argImage f.1 f.2)

/-- The host's turn that appends a field. -/
def addTurn (f : TypedField) : Turn := .issue (encode (addFieldInstr f.2 f.1))

/-- The host's turn that extracts a field of the same width. -/
def extractTurn (f : TypedField) : Turn := .issue (encode (extractFieldInstr f.1))

/-- The machine run for `k` steps; it stops at the first fault or refusal. -/
def runSteps : Nat → State → Result
  | 0, s => .next s
  | k + 1, s =>
    match step s with
    | .next t => runSteps k t
    | .fault f => .fault f
    | .refused r => .refused r

/-- It is the block's turn at `s`, and it moves from `u`: the environment has no turn, or the host waits with a command or a
reset, or a `block` turn is taken, which leaves `u` (log entry 3). The host waits only while a command is in progress. -/
def BlockMoves (s u : State) : Prop :=
  (s.pending = none ∧ u = s) ∨ (∃ c v, s.pending = some (.issue c, v) ∧ u = s) ∨
    (∃ v, s.pending = some (.reset, v) ∧ u = s) ∨ s.pending = some (.block, u)

/-- A RECV in progress while the environment has no turn: only the block moves, one micro-step a step. -/
def RecvRunsAlone (s : State) : Prop := s.busy = true ∧ s.cmd = 0x30 ∧ s.pending = none

/-- Turns that append bytes, each as fast as the block consumes one (spec/70_reset_and_hazards.md R166). -/
def feedTurns (bs : List Byte) : List Turn := bs.flatMap fun b => [.arrive b, .block]

/-- The commands of the send path (spec/43_send.md). -/
def sendSide : Instr → Bool
  | .addf1 _ => true
  | .addf2 _ => true
  | .addf4 _ => true
  | .send => true
  | .recv => false
  | .extf1 => false
  | .extf2 => false
  | .extf4 => false
  | .rdreg _ => false

/-- The commands of the receive path (spec/44_receive.md). -/
def receiveSide : Instr → Bool
  | .addf1 _ => false
  | .addf2 _ => false
  | .addf4 _ => false
  | .send => false
  | .recv => true
  | .extf1 => true
  | .extf2 => true
  | .extf4 => true
  | .rdreg _ => false

/-- `s` with the receive state of `r` (spec/44_receive.md R123). -/
def withReceiveState (s r : State) : State :=
  { s with rxb := r.rxb, rxIdx := r.rxIdx, rxOvf := r.rxOvf, rxLen := r.rxLen, extractPos := r.extractPos,
           pktValid := r.pktValid, tin := r.tin }

/-- `s` with the send state of `r` (spec/10_state.md R18, R19; spec/20_memory.md R47). -/
def withSendState (s r : State) : State := { s with txb := r.txb, txLen := r.txLen, tout := r.tout }

/-- Decode carried out in the buffer itself (R26, R88): from position `i`, `n` bytes are read at `i` upwards, and each decoded
byte is written one position lower; none if a byte has no value. -/
def decodeInPlace (rem : Byte) (i : Nat) : (n : Nat) → Memory → Option Memory
  | 0, m => some m
  | n + 1, m =>
    match m.read i with
    | none => none
    | some e =>
      if rem - 1 = 0#8 then decodeInPlace e (i + 1) n (m.write (i - 1) 0#8)
      else decodeInPlace (rem - 1) (i + 1) n (m.write (i - 1) e)

end Sys2Proof
end

