-- ==== Sys2Proof/Certificates/Slice0/Obligations.lean ====
section
/-! DEFINITION. The statements about the machine that are to be proved, in the order of OBLIGATIONS.json. Each docstring names the
rules of spec/ it formalises; a statement that rests on a choice of the model names the log entry. -/

open Sys2Proof Sys2Proof.Machine

/-! ### Encoding and decoding (spec/30_encoding.md) -/

/-- R62, R64 to R68: a command decodes to an instruction exactly when it has that instruction's CMD and, if the
instruction reads ARG, that instruction's ARG. So decoding undoes encoding, no bit that is read is dropped, and the
ignored ARG changes nothing. -/
def Obligations.DecodeUndoesEncode : Prop :=
  ∀ (c : Command) (i : Instr),
    decode c = .ok i ↔ c.cmd = (encode i).cmd ∧ (i.readsArg = true → c.arg = (encode i).arg)

/-- R67: exactly nine CMD values are legal, whatever ARG is; every other one completes with ILLEGAL_COMMAND, RESULT = 0 and no
state change; and a legal CMD is answered so only for READ_REG of an unassigned number. -/
def Obligations.OnlyNineCommandsAreLegal : Prop :=
  (∀ (cmd : Byte) (arg : Word) (i : Instr), decode ⟨cmd, arg⟩ = .ok i ↔
    (cmd, i) ∈ ([(0x10, .addf1 arg), (0x11, .addf2 arg), (0x12, .addf4 arg), (0x20, .send), (0x30, .recv),
      (0x40, .extf1), (0x41, .extf2), (0x42, .extf4), (0x50, .rdreg arg)] : List (Byte × Instr))) ∧
  (∀ s : State, s.cmd ∉ ([0x10, 0x11, 0x12, 0x20, 0x30, 0x40, 0x41, 0x42, 0x50] : List Byte) → s.busy = true →
    blockStep s = .next { s with status := 8#4, result := 0, busy := false }) ∧
  (∀ (i : Instr) (s t : State), s.busy = true → exec i s = .next t → t.busy = false → t.status = 8#4 →
    ∃ arg, i = .rdreg arg ∧ 5 < arg.toNat % 256)

/-- R62, R64, R65, R67: which of the three reasons an illegal CMD is rejected for. The names are the model's own. -/
def Obligations.RejectionNamesTheField : Prop :=
  ∀ (cmd : Byte) (arg : Word),
    (decode ⟨cmd, arg⟩ = .error .reservedBits ↔ cmd.extractLsb' 2 2 ≠ 0#2) ∧
    (decode ⟨cmd, arg⟩ = .error .reservedFunc ↔
      cmd.extractLsb' 2 2 = 0#2 ∧ (cmd.extractLsb' 4 4 = 0#4 ∨ 6#4 ≤ cmd.extractLsb' 4 4)) ∧
    (decode ⟨cmd, arg⟩ = .error .reservedWidth ↔ cmd.extractLsb' 2 2 = 0#2 ∧
      ((cmd.extractLsb' 4 4 ∈ [1#4, 4#4] ∧ cmd.extractLsb' 0 2 = 3#2) ∨
        (cmd.extractLsb' 4 4 ∈ [2#4, 3#4, 5#4] ∧ cmd.extractLsb' 0 2 ≠ 0#2)))

/-- R61, R67: a few words of the opcode table, read by the decoder; the numbering of ARG above CMD is the model's choice (log
entry 7). -/
def Obligations.TableWordsDecode : Prop :=
  decodeTableWord 8 0x10 = some (.addf1 0) ∧ decodeTableWord 8 0x12 = some (.addf4 0) ∧
    decodeTableWord 8 0x20 = some .send ∧ decodeTableWord 8 0x30 = some .recv ∧
    decodeTableWord 8 0x41 = some .extf2 ∧ decodeTableWord 8 0x50 = some (.rdreg 0) ∧
    decodeTableWord 40 0x03E811 = some (.addf2 0x03E8) ∧ decodeTableWord 8 0x13 = none

/-! ### A step of the machine (spec/00_scope.md R13, spec/20_memory.md R54, spec/70_reset_and_hazards.md) -/

/-- R13, R54, R61, R67, R145: when a command is in progress and it is the block's turn (`BlockMoves`: no turn of the environment
is left, or the host waits with a command or a reset, or a `block` turn is taken), a step is the execution of the instruction
that the command decodes to, and ILLEGAL_COMMAND when it decodes to none. Whose turn it is: log entry 3. -/
def Obligations.StepRunsTheDecodedCommand : Prop :=
  ∀ s u : State, s.busy = true → BlockMoves s u →
    (∀ i : Instr, decode ⟨s.cmd, s.arg⟩ = .ok i → step s = exec i u) ∧
    ∀ e : DecodeError, decode ⟨s.cmd, s.arg⟩ = .error e →
      step s = .next { u with status := 8#4, result := 0, busy := false }

/-- A word placed as the next command is what the next step runs, from every state (log entry 7; STATUS and RESULT meanwhile:
log entry 19). -/
def Obligations.PlacedCommandRunsNext : Prop :=
  ∀ (s : State) (nbits w : Nat) (i : Instr), decodeTableWord nbits w = some i →
    step (s.withFetchWord nbits w) =
      exec i { s with cmd := BitVec.ofNat 8 (w % 2 ^ nbits), arg := BitVec.ofNat 32 (w % 2 ^ nbits / 2 ^ 8), busy := true }

/-- R46, R47, R148: an arriving byte joins TIN's tail, the output takes TOUT's head, and a block with no command does nothing.
The environment's turns are the listed ones, then those of the cycle again and again, or those of a free stream. That a turn is
one step, and where the turns come from, is the model's choice (log entries 3, 12 and 17). -/
def Obligations.EnvironmentMovesTheQueues : Prop :=
  (∀ (s u : State) (b : Byte), s.pending = some (.arrive b, u) → step s = .next { u with tin := s.tin ++ [b] }) ∧
  (∀ s u : State, s.pending = some (.consume, u) → step s = .next { u with tout := s.tout.tail }) ∧
  (∀ s : State, s.busy = false → s.pending = none → step s = .next s) ∧
  (∀ (s : State) (t : Turn) (rest : List Turn), s.script = t :: rest →
    s.pending = some (t, { s with script := rest })) ∧
  (∀ (s : State) (t : Turn) (rest : List Turn), s.script = [] → s.onward = .cycle (t :: rest) →
    s.pending = some (t, { s with script := rest })) ∧
  (∀ (s : State) (n k : Nat), s.script = [] → s.onward = .free n k →
    s.pending = some (Config.freeTurn n k, { s with onward := .free n (k + 1) })) ∧
  ∀ s : State, s.pending = none ↔ s.script = [] ∧ (s.onward = .quiet ∨ s.onward = .cycle [])

/-- R13, R57: the host issues one command at a time; while one is in progress no other takes its place, and when none is,
the next one issued takes CMD and ARG. The turns are log entry 3's; that CMD and ARG stay, and that STATUS and RESULT keep the
last response while a command is presented, is log entry 19's. -/
def Obligations.OneCommandAtATime : Prop :=
  ∀ s t : State, step s = .next t →
    (s.busy = true → t.cmd = s.cmd ∧ t.arg = s.arg) ∧
    (s.busy = false → ∀ c u, s.pending = some (.issue c, u) →
      t = { u with cmd := c.cmd, arg := c.arg, busy := true })

/-- R160, R161: a reset between two commands puts every register to its reset value and changes neither TIN nor TOUT, nor the
environment's turns still to come (log entries 2, 3 and 8). -/
def Obligations.ResetTurnClearsRegisters : Prop :=
  ∀ s u : State, s.busy = false → s.pending = some (.reset, u) →
    ∃ t, step s = .next t ∧ t.txLen = 0 ∧ t.rxIdx = 0 ∧ t.rxOvf = false ∧ t.rxLen = 0 ∧ t.extractPos = 0 ∧
      t.pktValid = false ∧ t.tin = s.tin ∧ t.tout = s.tout ∧ t.cfg = s.cfg ∧ t.script = u.script ∧
      t.onward = u.onward ∧ t.busy = false

/-- R29: the reset values, for every instance. -/
def Obligations.ResetValues : Prop :=
  ∀ cfg : Config, let s := State.resetOf cfg
    s.txLen = 0 ∧ s.rxIdx = 0 ∧ s.rxOvf = false ∧ s.rxLen = 0 ∧ s.extractPos = 0 ∧ s.pktValid = false

/-- R6, R8, R162: an instance exists exactly for 0 ≤ CAP ≤ 252, with the CAP and REV asked for and RXCAP = CAP + 2. -/
def Obligations.ConstructionChecksCapacity : Prop :=
  ∀ (cap : Nat) (rev : Bool),
    (cap ≤ 252 → ∃ c, Config.construct cap rev = some c ∧ c.capacity = cap ∧ c.rev = rev ∧ c.rxcap = cap + 2) ∧
    (252 < cap → Config.construct cap rev = none)

/-- R162, R50, R109: no step changes CAP or REV. -/
def Obligations.ConfigurationNeverChanges : Prop :=
  ∀ s t : State, step s = .next t → t.cfg = s.cfg

/-! ### The codec (spec/40_codec.md) -/

/-- R85: the four properties of Encode: the length, no zero before the terminator, the block-length bytes, the verbatim
bytes. -/
def Obligations.EncodeProperties : Prop :=
  ∀ raw : List Byte, raw.length ≤ 252 →
    (encodeFrame raw).length = raw.length + 2 ∧
    ((∀ j, j ≤ raw.length → (encodeFrame raw)[j]? ≠ some 0#8) ∧ (encodeFrame raw)[raw.length + 1]? = some 0#8) ∧
    (∀ p, IsMarker raw p → ∃ d, (encodeFrame raw)[p]? = some (BitVec.ofNat 8 d) ∧ 1 ≤ d ∧ d ≤ raw.length + 1 ∧
      (p + d = raw.length + 1 ∨ IsMarker raw (p + d)) ∧ ∀ q, p < q → q < p + d → ¬ IsMarker raw q) ∧
    (∀ j, 1 ≤ j → j ≤ raw.length → ¬ IsMarker raw j → (encodeFrame raw)[j]? = raw[j - 1]?)

/-- R86: the corner cases of Encode: the empty sequence, no zero, all zeros, the largest block-length byte, and the rule's
two examples. Beyond the 252 bytes of R83 the zero-free and the all-zero clause rest on the model's choice of a distance mod 256
(log entry 10). -/
def Obligations.EncodeCornerCases : Prop :=
  encodeFrame [] = [1#8, 0#8] ∧
  (∀ raw : List Byte, (∀ b ∈ raw, b ≠ 0#8) →
    encodeFrame raw = BitVec.ofNat 8 (raw.length + 1) :: (raw ++ [0#8])) ∧
  (∀ n, encodeFrame (List.replicate n 0#8) = List.replicate (n + 1) 1#8 ++ [0#8]) ∧
  (∀ raw : List Byte, raw.length = 252 → (∀ b ∈ raw, b ≠ 0#8) → (encodeFrame raw).head? = some 253#8) ∧
  (∀ (raw : List Byte) (p : Nat) (v : Byte), raw.length ≤ 252 → IsMarker raw p → (encodeFrame raw)[p]? = some v →
    v.toNat ≤ 253) ∧
  encodeFrame [0x00, 0x01, 0x00] = [0x01, 0x02, 0x01, 0x01, 0x00] ∧
  encodeFrame [0x11, 0x22, 0x00, 0x33] = [0x03, 0x11, 0x22, 0x02, 0x33, 0x00]

/-- R87, R88: Decode gives len(enc) - 2 bytes, and its first i bytes depend only on the first i + 1 bytes of the frame; so the
terminator is never read. -/
def Obligations.DecodeReadsLeftToRight : Prop :=
  (∀ enc : List Byte, 2 ≤ enc.length → (decodeFrame enc).length = enc.length - 2) ∧
  ∀ (enc enc' : List Byte) (i : Nat), i + 2 ≤ enc.length → i + 2 ≤ enc'.length →
    enc.take (i + 1) = enc'.take (i + 1) → (decodeFrame enc).take i = (decodeFrame enc').take i

/-- R26, R88: decoding in the buffer itself from left to right gives what decoding to a scratch buffer and copying back
gives. -/
def Obligations.InPlaceDecodeRefinesScratch : Prop :=
  ∀ (m : Memory) (e : Byte) (es : List Byte) (l : Nat), 2 ≤ l → m.readBytes 0 l = some (e :: es) →
    ∃ m', decodeInPlace e 1 (l - 2) m = some m' ∧
      ∀ a, m'.read a = (m.writeBytes 0 (decodeFrame (e :: es))).read a

/-- R91: the codec round trip. -/
def Obligations.DecodeOfEncodeReturnsRaw : Prop :=
  ∀ raw : List Byte, raw.length ≤ 252 → decodeFrame (encodeFrame raw) = raw

/-- R92: the well-formed frames of length n + 2 are exactly the images of the raw sequences of length n, and Encode undoes
Decode on them. -/
def Obligations.WellFormedFramesAreEncodings : Prop :=
  (∀ (f : List Byte) (n : Nat), n ≤ 252 →
    ((WellFormedFrame f ∧ f.length = n + 2) ↔ ∃ raw, raw.length = n ∧ encodeFrame raw = f)) ∧
  ∀ f : List Byte, WellFormedFrame f → encodeFrame (decodeFrame f) = f

/-! ### The checksum (spec/41_checksum.md) -/

/-- R100: the checksum is the sum mod 256, and does not depend on the order of the bytes. -/
def Obligations.ChecksumIsTheSum : Prop :=
  (∀ s : List Byte, (checksum s).toNat = (s.map BitVec.toNat).sum % 256) ∧
  ∀ s s' : List Byte, s.Perm s' → checksum s = checksum s'

/-- R102: Validate on a non-empty sequence compares the checksum of all but the last byte with the last byte. It is never asked
about the empty sequence: RECEIVE rejects a frame of fewer than 3 bytes, whatever it holds, and a longer one never decodes to the
empty sequence. -/
def Obligations.ValidateComparesTheLastByte : Prop :=
  (∀ (s : List Byte) (c : Byte), validate (s ++ [c]) = true ↔ checksum s = c) ∧
  (∀ (s : State) (rest : List Byte), s.tin = 0#8 :: rest → s.rxOvf = false → s.rxIdx.toNat + 1 < 3 →
    ∃ t, exec .recv s = .next t ∧ t.status = 3#4 ∧ t.result = 0 ∧ t.pktValid = false ∧ t.busy = false) ∧
  ∀ enc : List Byte, 3 ≤ enc.length → decodeFrame enc ≠ []

/-- R103: an appended checksum validates; a single flipped bit never does; two flips that compensate, two flips of bit 7, and any
reordering of the data bytes go undetected. -/
def Obligations.ChecksumDetectsSingleBitErrors : Prop :=
  (∀ s : List Byte, validate (s ++ [checksum s]) = true) ∧
  (∀ (s : List Byte) (i k : Nat), i ≤ s.length → k < 8 → validate (flipBit (s ++ [checksum s]) i k) = false) ∧
  (∀ (s : List Byte) (i j k : Nat) (hi : i < s.length) (hj : j < s.length), i ≠ j → k < 8 →
    s[i].getLsbD k = true → s[j].getLsbD k = false →
      validate (flipBit (flipBit (s ++ [checksum s]) i k) j k) = true) ∧
  (∀ (s : List Byte) (i j : Nat), i < s.length → j < s.length → i ≠ j →
    validate (flipBit (flipBit (s ++ [checksum s]) i 7) j 7) = true) ∧
  ∀ s s' : List Byte, s.Perm s' → validate (s' ++ [checksum s]) = true

/-! ### Fields and buffers (spec/42_endian.md, spec/20_memory.md) -/

/-- R107, R108: the reverser's table, and that it is its own inverse. -/
def Obligations.ReverserIsItsOwnInverse : Prop :=
  ∀ (rev : Bool) (w : Width) (img : List Byte),
    (rev = true ∧ (w = .w2 ∨ w = .w4) → reverseField rev w img = img.reverse) ∧
    (¬(rev = true ∧ (w = .w2 ∨ w = .w4)) → reverseField rev w img = img) ∧
    reverseField rev w (reverseField rev w img) = img

/-- R49, R66, R132: the lanes of ARG that a width selects are the lanes of the RESULT built from the same image, and the upper
lanes are 0. -/
def Obligations.FieldImageLanes : Prop :=
  ∀ (w : Width) (v : Word) (k : Nat), k < 4 →
    lane (ofLanes (argImage w v)) k = if k < widthBytes w then lane v k else 0

/-- R18, R20, R29, as the model holds a buffer (log entry 4): two buffers in canonical form that read alike at every index are
the same data. -/
def Obligations.EqualContentsAreEqualBuffers : Prop :=
  ∀ m m' : Memory, m.wf → m'.wf → (∀ a, m.read a = m'.read a) → m = m'

/-! ### The send path (spec/43_send.md) -/

/-- R114: ADDF1. -/
def Obligations.Addf1AppendsOneByte : Prop :=
  ∀ (s : State) (arg : Word),
    decode ⟨0x10, arg⟩ = .ok (.addf1 arg) ∧
    (s.txLen.toNat + 2 ≤ s.cfg.capacity → ∃ m : Memory,
      exec (.addf1 arg) s = .next { s with txb := m, txLen := BitVec.ofNat 8 (s.txLen.toNat + 1),
                                           status := 0#4, result := 0, busy := false } ∧
      m.read s.txLen.toNat = some (arg.extractLsb' 0 8) ∧
      ∀ a, a ≠ s.txLen.toNat → m.read a = s.txb.read a) ∧
    (s.txLen.toNat + 2 > s.cfg.capacity →
      exec (.addf1 arg) s = .next { s with status := 5#4, result := 0, busy := false })

/-- R115: ADDF2; with REV = 1 the two bytes are stored swapped. -/
def Obligations.Addf2AppendsTwoBytes : Prop :=
  ∀ (s : State) (arg : Word),
    decode ⟨0x11, arg⟩ = .ok (.addf2 arg) ∧
    (s.txLen.toNat + 3 ≤ s.cfg.capacity → ∃ m : Memory,
      exec (.addf2 arg) s = .next { s with txb := m, txLen := BitVec.ofNat 8 (s.txLen.toNat + 2),
                                           status := 0#4, result := 0, busy := false } ∧
      m.readBytes s.txLen.toNat 2 = some (if s.cfg.rev then [arg.extractLsb' 8 8, arg.extractLsb' 0 8]
        else [arg.extractLsb' 0 8, arg.extractLsb' 8 8]) ∧
      ∀ a, a < s.txLen.toNat ∨ s.txLen.toNat + 2 ≤ a → m.read a = s.txb.read a) ∧
    (s.txLen.toNat + 3 > s.cfg.capacity →
      exec (.addf2 arg) s = .next { s with status := 5#4, result := 0, busy := false })

/-- R116: ADDF4. -/
def Obligations.Addf4AppendsFourBytes : Prop :=
  ∀ (s : State) (arg : Word),
    decode ⟨0x12, arg⟩ = .ok (.addf4 arg) ∧
    (s.txLen.toNat + 5 ≤ s.cfg.capacity → ∃ m : Memory,
      exec (.addf4 arg) s = .next { s with txb := m, txLen := BitVec.ofNat 8 (s.txLen.toNat + 4),
                                           status := 0#4, result := 0, busy := false } ∧
      m.readBytes s.txLen.toNat 4 = some (if s.cfg.rev
        then [arg.extractLsb' 24 8, arg.extractLsb' 16 8, arg.extractLsb' 8 8, arg.extractLsb' 0 8]
        else [arg.extractLsb' 0 8, arg.extractLsb' 8 8, arg.extractLsb' 16 8, arg.extractLsb' 24 8]) ∧
      ∀ a, a < s.txLen.toNat ∨ s.txLen.toNat + 4 ≤ a → m.read a = s.txb.read a) ∧
    (s.txLen.toNat + 5 > s.cfg.capacity →
      exec (.addf4 arg) s = .next { s with status := 5#4, result := 0, busy := false })

/-- R66: the ARG bits a command does not read change nothing. -/
def Obligations.UnreadArgumentBitsAreIgnored : Prop :=
  ∀ (a b : Word) (s : State),
    (a.extractLsb' 0 8 = b.extractLsb' 0 8 → exec (.addf1 a) s = exec (.addf1 b) s) ∧
    (a.extractLsb' 0 16 = b.extractLsb' 0 16 → exec (.addf2 a) s = exec (.addf2 b) s) ∧
    (a.extractLsb' 0 8 = b.extractLsb' 0 8 → exec (.rdreg a) s = exec (.rdreg b) s) ∧
    (∀ cmd : Byte, cmd ∈ ([0x20, 0x30, 0x40, 0x41, 0x42] : List Byte) → decode ⟨cmd, a⟩ = decode ⟨cmd, b⟩)

/-- R117: SEND; in states that meet the invariant it lacks room only when CAP = 0. -/
def Obligations.SendTransmitsTheFrame : Prop :=
  ∀ s : State,
    (∀ arg, decode ⟨0x20, arg⟩ = .ok .send) ∧
    (∀ fields : List Byte, s.txLen.toNat + 1 ≤ s.cfg.capacity → s.txb.readBytes 0 s.txLen.toNat = some fields →
      ∃ m : Memory,
        exec .send s = .next { s with txb := m, txLen := 0,
                                      tout := s.tout ++ encodeFrame (fields ++ [checksum fields]),
                                      status := 0#4, result := BitVec.ofNat 32 (s.txLen.toNat + 3), busy := false } ∧
        m.read s.txLen.toNat = some (checksum fields) ∧
        ∀ a, a ≠ s.txLen.toNat → m.read a = s.txb.read a) ∧
    (s.txLen.toNat + 1 > s.cfg.capacity →
      exec .send s = .next { s with status := 5#4, result := 0, busy := false }) ∧
    (StateInv s → s.txLen.toNat + 1 > s.cfg.capacity → s.cfg.capacity = 0)

/-- R117 with R31(a): SEND lacks room only when CAP = 0; otherwise it completes with OK and appends TX_LEN + 3 bytes. -/
def Obligations.SendLacksRoomOnlyAtZeroCapacity : Prop :=
  ∀ s : State, StateInv s →
    (1 ≤ s.cfg.capacity → ∃ t, exec .send s = .next t ∧ t.status = 0#4 ∧ t.txLen = 0 ∧
      t.result = BitVec.ofNat 32 (s.txLen.toNat + 3) ∧ t.tout.length = s.tout.length + s.txLen.toNat + 3) ∧
    (s.cfg.capacity = 0 → exec .send s = .next { s with status := 5#4, result := 0, busy := false })

/-- R118: fields appended from TX_LEN = 0 and then SEND append to TOUT the encoding of their bytes and checksum. The host's
commands stand in `script`, with nothing after them; each takes one step to present and one to execute (log entry 3). -/
def Obligations.AppendedFieldsMakeTheFrame : Prop :=
  ∀ (s : State) (fs : List TypedField), s.busy = false → s.txLen = 0 →
    s.script = fs.map addTurn ++ [.issue (encode .send)] → s.onward = .quiet →
    (payloadOf s.cfg.rev fs).length + 1 ≤ s.cfg.capacity →
      let p := payloadOf s.cfg.rev fs
      ∃ t, runSteps (2 * (fs.length + 1)) s = .next t ∧ t.tout = s.tout ++ encodeFrame (p ++ [checksum p]) ∧
        t.tout.length = s.tout.length + p.length + 3 ∧ t.txLen = 0 ∧ t.status = 0#4 ∧
        t.result = BitVec.ofNat 32 (p.length + 3) ∧ t.busy = false ∧ t.script = [] ∧ withReceiveState t s = t

/-! ### The receive path (spec/44_receive.md) -/

/-- R124: the micro-step on a byte that is no terminator, wherever RX_IDX lies in RXB. That STATUS and RESULT keep the last
response meanwhile is log entry 19's. -/
def Obligations.RecvBuffersTheByte : Prop :=
  ∀ (s : State) (b : Byte) (rest : List Byte), s.tin = b :: rest → b ≠ 0#8 → s.rxIdx.toNat < s.cfg.rxcap →
    ∃ m : Memory, m.read s.rxIdx.toNat = some b ∧ (∀ a, a ≠ s.rxIdx.toNat → m.read a = s.rxb.read a) ∧
      (s.rxIdx.toNat < s.cfg.rxcap - 1 →
        exec .recv s = .next { s with tin := rest, pktValid := false, rxb := m,
                                      rxIdx := BitVec.ofNat 8 (s.rxIdx.toNat + 1) }) ∧
      (s.rxIdx.toNat = s.cfg.rxcap - 1 →
        exec .recv s = .next { s with tin := rest, pktValid := false, rxb := m, rxOvf := true })

/-- R125 to R129: the micro-step on the terminator: an overflowed frame, a runt frame, and a decoded frame whose checksum
fails or holds. L is RX_IDX + 1. -/
def Obligations.TerminatorCompletesTheFrame : Prop :=
  ∀ (s : State) (rest : List Byte), s.tin = 0#8 :: rest → s.rxIdx.toNat < s.cfg.rxcap →
    let l := s.rxIdx.toNat + 1
    (s.rxOvf = true → ∃ m : Memory, m.read (l - 1) = some 0#8 ∧ (∀ a, a ≠ l - 1 → m.read a = s.rxb.read a) ∧
      exec .recv s = .next { s with tin := rest, pktValid := false, rxb := m, rxIdx := 0, rxOvf := false,
                                    rxLen := BitVec.ofNat 8 l, status := 2#4, result := 0, busy := false }) ∧
    (s.rxOvf = false → l < 3 → ∃ m : Memory, m.read (l - 1) = some 0#8 ∧
      (∀ a, a ≠ l - 1 → m.read a = s.rxb.read a) ∧
      exec .recv s = .next { s with tin := rest, pktValid := false, rxb := m, rxIdx := 0,
                                    rxLen := BitVec.ofNat 8 l, status := 3#4, result := 0, busy := false }) ∧
    (∀ body : List Byte, s.rxOvf = false → 3 ≤ l → s.rxb.readBytes 0 (l - 1) = some body →
      let raw := decodeFrame (body ++ [0#8])
      ∃ m : Memory, m.readBytes 0 (l - 2) = some raw ∧ m.read (l - 1) = some 0#8 ∧
        (∀ a, l - 2 ≤ a → a ≠ l - 1 → m.read a = s.rxb.read a) ∧
        (validate raw = false →
          exec .recv s = .next { s with tin := rest, pktValid := false, rxb := m, rxIdx := 0,
                                        rxLen := BitVec.ofNat 8 (l - 2), status := 3#4, result := 0,
                                        busy := false }) ∧
        (validate raw = true →
          exec .recv s = .next { s with tin := rest, pktValid := true, rxb := m, rxIdx := 0, extractPos := 0,
                                        rxLen := BitVec.ofNat 8 (l - 3), status := 4#4,
                                        result := BitVec.ofNat 32 (l - 3), busy := false }))

/-- R130: with TIN empty RECEIVE completes with INCOMPLETE and changes nothing else; a packet being extracted survives. -/
def Obligations.RecvOnEmptyInputChangesNothing : Prop :=
  ∀ s : State, s.tin = [] → exec .recv s = .next { s with status := 1#4, result := 0, busy := false }

/-- R93, R130, R58: from a frame boundary, RECEIVE consumes exactly the bytes up to the first terminator, leaves the rest in
TIN, and answers what that frame decodes to. -/
def Obligations.RecvProcessesExactlyOneFrame : Prop :=
  ∀ (s : State) (body rest : List Byte), RecvRunsAlone s → s.rxIdx = 0 → s.rxOvf = false →
    s.tin = body ++ 0#8 :: rest → (∀ b ∈ body, b ≠ 0#8) → body.length + 1 ≤ s.cfg.rxcap →
      let raw := decodeFrame (body ++ [0#8])
      ∃ t, runSteps (body.length + 1) s = .next t ∧ t.tin = rest ∧ t.busy = false ∧ t.rxIdx = 0 ∧ t.rxOvf = false ∧
        withSendState t s = t ∧
        (body.length + 1 < 3 → t.status = 3#4 ∧ t.result = 0 ∧ t.pktValid = false ∧ t.extractPos = s.extractPos ∧
          t.rxLen = BitVec.ofNat 8 (body.length + 1)) ∧
        (3 ≤ body.length + 1 → t.rxb.readBytes 0 (body.length - 1) = some raw) ∧
        (3 ≤ body.length + 1 → validate raw = false → t.status = 3#4 ∧ t.result = 0 ∧ t.pktValid = false ∧
          t.extractPos = s.extractPos ∧ t.rxLen = BitVec.ofNat 8 (body.length - 1)) ∧
        (3 ≤ body.length + 1 → validate raw = true → t.status = 4#4 ∧ t.pktValid = true ∧ t.extractPos = 0 ∧
          t.rxLen = BitVec.ofNat 8 (body.length - 2) ∧ t.result = BitVec.ofNat 32 (body.length - 2))

/-- R125, R142: a frame with RXCAP or more bytes before its terminator is discarded with OVERFLOW, and the block is back at a
frame boundary right behind that terminator. -/
def Obligations.OverflowResynchronises : Prop :=
  ∀ (s : State) (body rest : List Byte), RecvRunsAlone s → s.rxIdx = 0 → s.rxOvf = false →
    s.tin = body ++ 0#8 :: rest → (∀ b ∈ body, b ≠ 0#8) → s.cfg.rxcap ≤ body.length →
      ∃ t, runSteps (body.length + 1) s = .next t ∧ t.status = 2#4 ∧ t.result = 0 ∧ t.busy = false ∧ t.tin = rest ∧
        t.rxIdx = 0 ∧ t.rxOvf = false ∧ t.rxLen = BitVec.ofNat 8 s.cfg.rxcap ∧ t.pktValid = false ∧
        t.extractPos = s.extractPos ∧ withSendState t s = t

/-- R130, R166: when the environment appends nothing, RECEIVE completes within one step more than the bytes in TIN, with
one of its four outcomes. -/
def Obligations.RecvCompletesInASilentEnvironment : Prop :=
  ∀ s : State, StateInv s → RecvRunsAlone s →
    ∃ k t, 1 ≤ k ∧ k ≤ s.tin.length + 1 ∧ runSteps k s = .next t ∧ t.busy = false ∧
      1 ≤ t.status.toNat ∧ t.status.toNat ≤ 4

/-- R46, R54, R58: bytes that arrive behind a byte being received do not change the micro-step; they wait in TIN. -/
def Obligations.ArrivalsDoNotDisturbTheMicroStep : Prop :=
  ∀ (s t : State) (more : List Byte), s.tin ≠ [] → exec .recv s = .next t →
    exec .recv { s with tin := s.tin ++ more } = .next { t with tin := t.tin ++ more }

/-- R133: EXTF1. -/
def Obligations.Extf1ReadsOneByte : Prop :=
  ∀ s : State,
    (∀ arg, decode ⟨0x40, arg⟩ = .ok .extf1) ∧
    (s.pktValid = false → exec .extf1 s = .next { s with status := 6#4, result := 0, busy := false }) ∧
    (s.pktValid = true → s.extractPos.toNat + 1 > s.rxLen.toNat →
      exec .extf1 s = .next { s with status := 7#4, result := 0, busy := false }) ∧
    (∀ b : Byte, s.pktValid = true → s.extractPos.toNat + 1 ≤ s.rxLen.toNat → s.rxLen.toNat ≤ s.cfg.rxcap →
      s.rxb.read s.extractPos.toNat = some b →
        exec .extf1 s = .next { s with extractPos := BitVec.ofNat 8 (s.extractPos.toNat + 1), status := 0#4,
                                       result := b.setWidth 32, busy := false })

/-- R134: EXTF2; with REV = 1 the lanes are swapped. -/
def Obligations.Extf2ReadsTwoBytes : Prop :=
  ∀ s : State,
    (∀ arg, decode ⟨0x41, arg⟩ = .ok .extf2) ∧
    (s.pktValid = false → exec .extf2 s = .next { s with status := 6#4, result := 0, busy := false }) ∧
    (s.pktValid = true → s.extractPos.toNat + 2 > s.rxLen.toNat →
      exec .extf2 s = .next { s with status := 7#4, result := 0, busy := false }) ∧
    (∀ b0 b1 : Byte, s.pktValid = true → s.extractPos.toNat + 2 ≤ s.rxLen.toNat → s.rxLen.toNat ≤ s.cfg.rxcap →
      s.rxb.readBytes s.extractPos.toNat 2 = some [b0, b1] →
        exec .extf2 s = .next { s with extractPos := BitVec.ofNat 8 (s.extractPos.toNat + 2), status := 0#4,
                                       result := (if s.cfg.rev then b0 ++ b1 else b1 ++ b0).setWidth 32,
                                       busy := false })

/-- R135: EXTF4. -/
def Obligations.Extf4ReadsFourBytes : Prop :=
  ∀ s : State,
    (∀ arg, decode ⟨0x42, arg⟩ = .ok .extf4) ∧
    (s.pktValid = false → exec .extf4 s = .next { s with status := 6#4, result := 0, busy := false }) ∧
    (s.pktValid = true → s.extractPos.toNat + 4 > s.rxLen.toNat →
      exec .extf4 s = .next { s with status := 7#4, result := 0, busy := false }) ∧
    (∀ b0 b1 b2 b3 : Byte, s.pktValid = true → s.extractPos.toNat + 4 ≤ s.rxLen.toNat →
      s.rxLen.toNat ≤ s.cfg.rxcap → s.rxb.readBytes s.extractPos.toNat 4 = some [b0, b1, b2, b3] →
        exec .extf4 s = .next { s with extractPos := BitVec.ofNat 8 (s.extractPos.toNat + 4), status := 0#4,
                                       result := if s.cfg.rev then b0 ++ b1 ++ b2 ++ b3 else b3 ++ b2 ++ b1 ++ b0,
                                       busy := false })

/-- R136, R111, R50: the frame a sender makes of some fields, received at a frame boundary, is delivered with their length,
and extracting with the same widths in order returns each field's image: as it was appended when both ends have the same REV,
and with its 2 or 4 bytes swapped when they do not. The receiving host's commands stand in `script`, with nothing after them
(log entry 3). -/
def Obligations.FieldsSurviveTheWire : Prop :=
  ∀ (r : State) (senderRev : Bool) (fs : List TypedField) (rest : List Byte),
    let p := payloadOf senderRev fs
    r.busy = false → r.rxIdx = 0 → r.rxOvf = false → p.length + 3 ≤ r.cfg.rxcap →
    r.tin = encodeFrame (p ++ [checksum p]) ++ rest →
    r.script = .issue (encode .recv) :: fs.map extractTurn → r.onward = .quiet →
      (∃ t, runSteps (p.length + 4) r = .next t ∧ t.status = 4#4 ∧ t.rxLen.toNat = p.length ∧ t.tin = rest ∧
        t.pktValid = true ∧ t.busy = false) ∧
      ∀ (before after : List TypedField) (f : TypedField), fs = before ++ f :: after →
        ∃ t, runSteps (p.length + 4 + 2 * (before.length + 1)) r = .next t ∧ t.status = 0#4 ∧ t.busy = false ∧
          t.result = if senderRev = r.cfg.rev then ofLanes (argImage f.1 f.2)
            else ofLanes (argImage f.1 f.2).reverse

/-! ### Register readout and statuses (spec/45_register_access.md, spec/60_exceptions.md) -/

/-- R137, R138, R28: RDREG of 0x00..0x05 answers the register with its bits in place and changes no state; of any other number
it raises ILLEGAL_COMMAND. -/
def Obligations.RegisterReadout : Prop :=
  ∀ (s : State) (arg : Word), let r := arg.toNat % 256
    decode ⟨0x50, arg⟩ = .ok (.rdreg arg) ∧
    (r ≤ 5 → ∃ v : Word, exec (.rdreg arg) s = .next { s with status := 0#4, result := v, busy := false } ∧
      (r = 0 → (v.extractLsb' 0 8).toNat = s.cfg.capacity ∧ v.getLsbD 8 = s.cfg.rev ∧
        v.extractLsb' 9 7 = 0#7 ∧ (v.extractLsb' 16 8).toNat = s.cfg.capacity + 2 ∧ v.extractLsb' 24 8 = 0#8) ∧
      (r = 1 → v = s.txLen.setWidth 32) ∧ (r = 2 → v = s.rxIdx.setWidth 32) ∧ (r = 3 → v = s.rxLen.setWidth 32) ∧
      (r = 4 → v = s.extractPos.setWidth 32) ∧
      (r = 5 → v.getLsbD 0 = s.rxOvf ∧ v.getLsbD 1 = s.pktValid ∧ v.extractLsb' 2 30 = 0#30)) ∧
    (5 < r → exec (.rdreg arg) s = .next { s with status := 8#4, result := 0, busy := false })

/-- R141: a command that completes with CAPACITY_EXCEEDED, NO_PACKET, OUT_OF_DATA or ILLEGAL_COMMAND has RESULT = 0 and leaves
every piece of state and both queues as they were. -/
def Obligations.RaisedStatusChangesNothing : Prop :=
  ∀ (i : Instr) (s t : State), s.busy = true → exec i s = .next t → t.busy = false → 5 ≤ t.status.toNat →
    t = { s with status := t.status, result := 0, busy := false }

/-- R140: which commands answer which codes; 0x9..0xF are never produced. -/
def Obligations.StatusesByCommand : Prop :=
  ∀ (i : Instr) (s t : State), s.busy = true → exec i s = .next t → t.busy = false →
    (sendSide i = true → t.status ∈ [0#4, 5#4]) ∧
    (i = .recv → t.status ∈ [1#4, 2#4, 3#4, 4#4]) ∧
    (i = .extf1 ∨ i = .extf2 ∨ i = .extf4 → t.status ∈ [0#4, 6#4, 7#4]) ∧
    (∀ arg, i = .rdreg arg → t.status ∈ [0#4, 8#4])

/-! ### Who may write what (spec/10_state.md, spec/20_memory.md, spec/43_send.md, spec/44_receive.md) -/

/-- R15 to R25, R41, R42, R46, R47: the frame of every instruction. TXB and TX_LEN change only by the send path, TOUT only by
SEND, RXB, RX_IDX, RX_OVF, RX_LEN, PKT_VALID and TIN only by RECEIVE, EXTRACT_POS only by RECEIVE and EXTRACT_FIELD, and
CAP, REV, CMD, ARG and the environment's turns by none. -/
def Obligations.OnlyTheNamedCommandsWrite : Prop :=
  ∀ (i : Instr) (s t : State), exec i s = .next t →
    (sendSide i = false → t.txb = s.txb ∧ t.txLen = s.txLen) ∧
    (i ≠ .send → t.tout = s.tout) ∧
    (i ≠ .recv → t.rxb = s.rxb ∧ t.rxIdx = s.rxIdx ∧ t.rxOvf = s.rxOvf ∧ t.rxLen = s.rxLen ∧
      t.pktValid = s.pktValid ∧ t.tin = s.tin) ∧
    (receiveSide i = false → t.extractPos = s.extractPos) ∧
    t.cfg = s.cfg ∧ t.cmd = s.cmd ∧ t.arg = s.arg ∧ t.script = s.script ∧ t.onward = s.onward

/-- The send path and the receive path share no state (spec/43_send.md, opening; R131): ADD_FIELD and SEND do the same in every
receive state and leave it alone. -/
def Obligations.SendPathIgnoresReceiveState : Prop :=
  ∀ (i : Instr) (s t r : State), sendSide i = true → exec i s = .next t →
    exec i (withReceiveState s r) = .next (withReceiveState t r)

/-- No rule of the receive path reads or writes TXB or TX_LEN (spec/44_receive.md, opening): RECEIVE and EXTRACT_FIELD do the
same in every send state and leave it alone. -/
def Obligations.ReceivePathIgnoresSendState : Prop :=
  ∀ (i : Instr) (s t r : State), receiveSide i = true → exec i s = .next t →
    exec i (withSendState s r) = .next (withSendState t r)

/-- R46, R47, R58: in any step TIN loses at most its head and gains only an arriving byte at its tail; TOUT loses at most its
head and gains only a whole frame at its tail. That the output takes no more than one byte in a step is log entry 17's choice,
and that arrivals and the output have turns of their own is log entry 3's. -/
def Obligations.QueuesMoveInOrder : Prop :=
  ∀ s t : State, step s = .next t →
    (t.tin = s.tin ∨ (∃ b, s.tin = b :: t.tin) ∨
      ∃ b u, s.pending = some (.arrive b, u) ∧ t.tin = s.tin ++ [b]) ∧
    (t.tout = s.tout ∨ (∃ u, s.pending = some (.consume, u) ∧ t.tout = s.tout.tail) ∨
      ∃ raw, raw.length ≤ s.cfg.capacity ∧ t.tout = s.tout ++ encodeFrame raw)

/-- R27: in every state that meets the invariant, exactly the table's conditions tell the receive states apart. -/
def Obligations.ReceiveStatesOfTheSource : Prop :=
  ∀ s : State, StateInv s →
    (rxPhase s = .filling ↔ s.rxOvf = false ∧ s.pktValid = false) ∧
    (rxPhase s = .overflow ↔ s.rxOvf = true) ∧
    (rxPhase s = .dispatched ↔ s.pktValid = true) ∧
    (rxPhase s = .overflow → s.pktValid = false ∧ s.rxIdx.toNat = s.cfg.rxcap - 1) ∧
    (rxPhase s = .dispatched → s.rxOvf = false ∧ s.rxIdx.toNat = 0)

/-! ### Invariants of the whole machine (spec/10_state.md R25, R30, R31) -/

/-- R29, R31, R25, R90: the three invariants hold right after reset, for every instance, whatever TIN and the environment's
turns are (the other start values: log entry 2). -/
def Obligations.InvariantsHoldAtReset : Prop :=
  ∀ (cfg : Config) (tin : List Byte) (script : List Turn) (onward : Onward),
    let s := { State.resetOf cfg with tin := tin, script := script, onward := onward }
    StateInv s ∧ FrameZeroFree s ∧ PacketValidated s

/-- R31: every step keeps the invariant. -/
def Obligations.StepKeepsTheInvariant : Prop :=
  ∀ s t : State, StateInv s → step s = .next t → StateInv t

/-- R44, R30, R149: in a state that meets the invariant, no index leaves its buffer and no byte is read that nothing has
written, so a step always answers a next state. -/
def Obligations.NoStepFaults : Prop :=
  ∀ s : State, StateInv s → ∃ t, step s = .next t

/-- R31, R44, R30: every run from reset, of any instance, with any bytes in TIN and any turns of the environment, endless ones
among them, goes on for ever in states that meet the invariant: what InvariantsHoldAtReset, StepKeepsTheInvariant and NoStepFaults
come to together. The start values, the turns and the step of an idle block are the model's (log entries 2, 3 and 12). -/
def Obligations.EveryRunFromResetIsSafe : Prop :=
  ∀ (cfg : Config) (tin : List Byte) (script : List Turn) (onward : Onward) (k : Nat),
    ∃ t, runSteps k { State.resetOf cfg with tin := tin, script := script, onward := onward } = .next t ∧ StateInv t

/-- R90, R93: every step keeps the frame being received free of 0x00. -/
def Obligations.FrameInProgressStaysZeroFree : Prop :=
  ∀ s t : State, FrameZeroFree s → step s = .next t → FrameZeroFree t

/-- R25: every step keeps PKT_VALID true to its meaning: RXB holds a validated payload of RX_LEN bytes. -/
def Obligations.ValidPacketStaysValidated : Prop :=
  ∀ s t : State, PacketValidated s → step s = .next t → PacketValidated t

/-- R151, R45: a step of one instance is that instance's own step, and changes no other instance. -/
def Obligations.InstancesShareNothing : Prop :=
  ∀ (k : Nat) (sys sys' : List State), stepAt k sys = .next sys' →
    sys'.length = sys.length ∧ (∀ j, j ≠ k → sys'[j]? = sys[j]?) ∧
    ∀ s, sys[k]? = some s → ∃ t, step s = .next t ∧ sys'[k]? = some t

/-! ### The assembly syntax (spec/30_encoding.md R70 to R72) -/

/-- R71: which literals an ADDFn accepts, and the ARG word each gives. -/
def Obligations.AssemblerOperandRange : Prop :=
  ∀ (w : Width) (v : Int), let n := widthBytes w
    (0 ≤ v → v ≤ 2 ^ (8 * n) - 1 → ∃ a, operandWord n v = some a ∧ (a.toNat : Int) = v) ∧
    (-(2 ^ (8 * n - 1)) ≤ v → v ≤ -1 → ∃ a, operandWord n v = some a ∧ (a.toNat : Int) = v + 2 ^ (8 * n)) ∧
    (v < -(2 ^ (8 * n - 1)) ∨ 2 ^ (8 * n) ≤ v → operandWord n v = none)

/-- R70 to R72, U26: every assembled line is a command whose unread ARG bits are 0. -/
def Obligations.AssembledLinesAreWellFormed : Prop :=
  ∀ (line : List Char) (i : Instr), assemble line = .command i → i.wf = true

/-! ### RECEIVE without end (spec/70_reset_and_hazards.md) -/

/-- R166, R130: RECEIVE returns only when its micro-step consumes a terminator or finds TIN empty; and an environment that
appends non-zero bytes as fast as RECEIVE consumes them keeps it from returning, however long the run is, and an overflowed frame
is then never closed. The turns, and that such an environment is a cycle of them, are log entry 3's. -/
def Obligations.RecvRunsForEverWhileFed : Prop :=
  (∀ s t : State, s.busy = true → s.cmd = 0x30 → step s = .next t → t.busy = false →
    s.tin = [] ∨ ∃ rest, s.tin = 0#8 :: rest) ∧
  ∀ (s : State) (bs : List Byte), s.busy = true → s.cmd = 0x30 → s.rxIdx.toNat < s.cfg.rxcap →
    (∀ b ∈ s.tin, b ≠ 0#8) → bs ≠ [] → (∀ b ∈ bs, b ≠ 0#8) → s.script = [] → s.onward = .cycle (feedTurns bs) →
      ∀ k, ∃ t, runSteps k s = .next t ∧ t.busy = true ∧ t.cmd = 0x30 ∧ (s.rxOvf = true → t.rxOvf = true)
end

