-- ==== Sys2Proof/Laws/Codec.lean ====
section
/-! SUPPORT. The codec by structural recursion: Encode's index loop (R84) is `stuff`, which reads the input from its end, so
that proofs about frames are inductions on the raw sequence. -/

namespace Sys2Proof.Machine

/-- The distance from the block-length byte before `raw` to the next one or to the terminator, and the bytes after that
block-length byte. -/
def stuff : List Byte → Nat × List Byte
  | [] => (1, [terminator])
  | b :: rest =>
    if b = 0#8 then (1, BitVec.ofNat 8 (stuff rest).1 :: (stuff rest).2)
    else ((stuff rest).1 + 1, b :: (stuff rest).2)

@[simp] theorem stuff_nil : stuff [] = (1, [terminator]) := rfl

theorem stuff_zero (rest : List Byte) :
    stuff (0#8 :: rest) = (1, BitVec.ofNat 8 (stuff rest).1 :: (stuff rest).2) := by simp [stuff]

theorem stuff_nonzero {b : Byte} (h : b ≠ 0#8) (rest : List Byte) :
    stuff (b :: rest) = ((stuff rest).1 + 1, b :: (stuff rest).2) := by simp [stuff, h]

/-- A distance is at least 1 and at most one more than the bytes left. -/
theorem stuff_dist (raw : List Byte) : 1 ≤ (stuff raw).1 ∧ (stuff raw).1 ≤ raw.length + 1 := by
  induction raw with
  | nil => simp
  | cons b rest ih =>
    by_cases h : b = 0#8
    · subst h; simp [stuff_zero]
    · simp only [stuff_nonzero h, List.length_cons]; omega

@[simp] theorem stuff_length (raw : List Byte) : (stuff raw).2.length = raw.length + 1 := by
  induction raw with
  | nil => rfl
  | cons b rest ih =>
    by_cases h : b = 0#8
    · subst h; simp [stuff_zero, ih]
    · simp [stuff_nonzero h, ih]

theorem stuff_ne_nil (raw : List Byte) : (stuff raw).2 ≠ [] := by
  intro h; have := stuff_length raw; simp [h] at this

/-- The end of Encode (R84): the last block closed and the terminator written. -/
def encodeClose (n : Nat) (p : Nat × List Byte) : List Byte :=
  (p.2.set p.1 (BitVec.ofNat 8 (n + 1 - p.1))).set (n + 1) terminator

/-- Encode's loop from index `i` on, with `a` the output before the open block-length position, `x` the byte there and `c`
the output after it. -/
theorem encodeLoop_eq_stuff (rest a c : List Byte) (x : Byte) :
    encodeClose (a.length + c.length + rest.length)
        (encodeLoop rest (a.length + c.length) a.length
          (a ++ x :: (c ++ List.replicate (rest.length + 1) 0#8))) =
      a ++ BitVec.ofNat 8 (c.length + (stuff rest).1) :: (c ++ (stuff rest).2) := by
  induction rest generalizing a c x with
  | nil =>
    simp only [encodeLoop, encodeClose, List.length_nil, Nat.add_zero, Nat.zero_add, stuff_nil, List.replicate_one]
    rw [List.set_append_right _ _ le_rfl, Nat.sub_self, List.set_cons_zero,
      List.set_append_right _ _ (by omega), show a.length + c.length + 1 - a.length = c.length + 1 by omega,
      List.set_cons_succ, List.set_append_right _ _ le_rfl, Nat.sub_self]
    rfl
  | cons b rest ih =>
    have hset : (a ++ x :: (c ++ List.replicate ((b :: rest).length + 1) 0#8)).set (a.length + c.length + 1) b =
        a ++ x :: (c ++ b :: List.replicate (rest.length + 1) 0#8) := by
      rw [List.set_append_right _ _ (by omega), show a.length + c.length + 1 - a.length = c.length + 1 by omega,
        List.set_cons_succ, List.set_append_right _ _ le_rfl, Nat.sub_self, List.length_cons, List.replicate_succ,
        List.set_cons_zero]
    rw [encodeLoop]
    simp only [hset]
    split
    · next hb =>
      subst hb
      have hclose : (a ++ x :: (c ++ (0#8 : Byte) :: List.replicate (rest.length + 1) 0#8)).set a.length
            (BitVec.ofNat 8 (a.length + c.length + 1 - a.length)) =
          (a ++ BitVec.ofNat 8 (c.length + 1) :: c) ++ (0#8 : Byte) :: ([] ++ List.replicate (rest.length + 1) 0#8) := by
        rw [List.set_append_right _ _ le_rfl, Nat.sub_self, List.set_cons_zero,
          show a.length + c.length + 1 - a.length = c.length + 1 by omega]
        simp
      have := ih (a ++ BitVec.ofNat 8 (c.length + 1) :: c) [] 0#8
      simp only [List.length_append, List.length_cons, List.length_nil, Nat.add_zero, Nat.zero_add, List.nil_append]
        at this
      rw [hclose]
      simp only [List.length_cons, List.nil_append]
      rw [show a.length + c.length + (rest.length + 1) = a.length + (c.length + 1) + rest.length by omega,
        show a.length + c.length + 1 = a.length + (c.length + 1) by omega, this, stuff_zero]
      simp
    · next hb =>
      have := ih a (c ++ [b]) x
      simp only [List.length_append, List.length_cons, List.length_nil, Nat.zero_add, List.append_assoc,
        List.cons_append, List.nil_append] at this
      rw [show a.length + c.length + (b :: rest).length = a.length + (c.length + 1) + rest.length by
          simp only [List.length_cons]; omega,
        show a.length + c.length + 1 = a.length + (c.length + 1) by omega, this, stuff_nonzero hb]
      simp [Nat.add_assoc, Nat.add_comm 1]

/-- Encode (R84) as its first block-length byte and what follows. -/
theorem encodeFrame_eq_stuff (raw : List Byte) :
    encodeFrame raw = BitVec.ofNat 8 (stuff raw).1 :: (stuff raw).2 := by
  have := encodeLoop_eq_stuff raw [] [] 0#8
  simp only [List.length_nil, Nat.zero_add, List.nil_append] at this
  simpa [encodeFrame, encodeClose, List.replicate_succ] using this

@[simp] theorem encodeFrame_length (raw : List Byte) : (encodeFrame raw).length = raw.length + 2 := by
  simp [encodeFrame_eq_stuff]

@[simp] theorem decodeLoop_nil (rem : Byte) : decodeLoop rem [] = [] := rfl

/-- One round of Decode's loop: the counter reaches 0 at a block-length byte (R88). -/
theorem decodeLoop_cons (rem e : Byte) (es : List Byte) :
    decodeLoop rem (e :: es) =
      if rem - 1 = 0#8 then 0#8 :: decodeLoop e es else e :: decodeLoop (rem - 1) es := rfl

@[simp] theorem decodeFrame_cons (e : Byte) (es : List Byte) : decodeFrame (e :: es) = decodeLoop e es.dropLast := rfl

@[simp] theorem decodeLoop_length (rem : Byte) (es : List Byte) : (decodeLoop rem es).length = es.length := by
  induction es generalizing rem with
  | nil => rfl
  | cons e es ih => rw [decodeLoop]; split <;> simp [ih]

@[simp] theorem decodeFrame_length (enc : List Byte) : (decodeFrame enc).length = enc.length - 2 := by
  cases enc with
  | nil => rfl
  | cons e es => simp

end Sys2Proof.Machine
end

