-- ==== Sys2Proof/Laws/Config.lean ====
section
/-! SUPPORT. The bounds of CAP and RXCAP (spec/00_scope.md R6, R8). -/

namespace Sys2Proof

theorem Config.capacity_le (c : Config) : c.capacity ≤ 252 := Nat.le_of_lt_succ c.cap.isLt

theorem Config.rxcap_eq (c : Config) : c.rxcap = c.capacity + 2 := rfl

theorem Config.rxcap_le (c : Config) : c.rxcap ≤ 254 := Nat.add_le_add_right c.capacity_le 2

end Sys2Proof
end

