-- ==== Sys2Proof/Laws/Decode.lean ====
section
/-! SUPPORT. The three fields of CMD tell the 256 command bytes apart, so that a proof about the decoder is a proof about its
fields and not about 256 cases. -/

namespace Sys2Proof

/-- A command byte is its three fields (R62). -/
theorem cmd_eq_fields : ∀ c : Byte, c = funcField c ++ (rsvField c ++ widthField c) := by decide

/-- A command byte is told by its fields (R62). -/
theorem cmd_eq_iff (c d : Byte) :
    c = d ↔ funcField c = funcField d ∧ rsvField c = rsvField d ∧ widthField c = widthField d := by
  refine ⟨fun h => h ▸ ⟨rfl, rfl, rfl⟩, fun ⟨h1, h2, h3⟩ => ?_⟩
  rw [cmd_eq_fields c, cmd_eq_fields d, h1, h2, h3]

/-- The reserved width code is the only one without a width (R64). -/
theorem widthOfCode_eq_none : ∀ w : BitVec 2, widthOfCode w = none ↔ w = 0b11#2 := by decide

end Sys2Proof
end

