-- ==== Sys2Proof/Laws/Memory.lean ====
section
/-! SUPPORT. The laws of the buffers: a read after a write, every operation keeps the canonical form, and what a run of bytes
reads as. -/

namespace Sys2Proof.Machine

@[simp] theorem Memory.read_nil (a : Nat) : Memory.read [] a = none := rfl

theorem Memory.read_cons (c : Host.Cell) (m : Memory) (a : Nat) :
    Memory.read (c :: m) a = if c.1 = a then some c.2 else Memory.read m a := rfl

@[simp] theorem Memory.writeBytes_nil (m : Memory) (a : Nat) : m.writeBytes a [] = m := rfl

@[simp] theorem Memory.writeBytes_cons (m : Memory) (a : Nat) (b : Byte) (bs : List Byte) :
    m.writeBytes a (b :: bs) = (m.write a b).writeBytes (a + 1) bs := rfl

@[simp] theorem Memory.read_write_same (m : Memory) (a : Nat) (b : Byte) : (m.write a b).read a = some b := by
  induction m with
  | nil => simp [Memory.write, Memory.read]
  | cons c m ih =>
    simp only [Memory.write]
    split
    · simp [Memory.read]
    · split
      · simp [Memory.read]
      · next h => simp [Memory.read, ih, Ne.symm h]

theorem Memory.read_write_ne (m : Memory) {a a' : Nat} (b : Byte) (h : a' ≠ a) :
    (m.write a b).read a' = m.read a' := by
  induction m with
  | nil => simp [Memory.write, Memory.read, Memory.unlisted, Ne.symm h]
  | cons c m ih =>
    simp only [Memory.write]
    split
    · simp [Memory.read, Ne.symm h]
    · split
      · next h2 => simp [Memory.read, ← h2, Ne.symm h]
      · simp [Memory.read, ih]

/-- Every index of a written buffer is one of the buffer's or the written one. -/
theorem Memory.mem_write {m : Memory} {a : Nat} {b : Byte} {c : Host.Cell} (h : c ∈ m.write a b) :
    c ∈ m ∨ c = (a, b) := by
  induction m with
  | nil => simpa [Memory.write] using h
  | cons d m ih =>
    simp only [Memory.write] at h
    split at h
    · simp only [List.mem_cons] at h ⊢; tauto
    · split at h
      · simp only [List.mem_cons] at h ⊢; tauto
      · simp only [List.mem_cons] at h ⊢
        rcases h with h | h
        · exact .inl (.inl h)
        · rcases ih h with h | h
          · exact .inl (.inr h)
          · exact .inr h

/-- A write keeps the canonical form. -/
theorem Memory.write_wf {m : Memory} (h : m.wf) (a : Nat) (b : Byte) : (m.write a b).wf := by
  induction m with
  | nil => simp [Memory.write, Memory.wf]
  | cons c m ih =>
    simp only [Memory.wf, List.pairwise_cons] at h
    simp only [Memory.write]
    split
    · next hlt =>
      simp only [Memory.wf, List.pairwise_cons, List.mem_cons]
      refine ⟨?_, h.1, h.2⟩
      rintro d (rfl | hd)
      · exact hlt
      · exact lt_trans hlt (h.1 d hd)
    · split
      · next heq =>
        simp only [Memory.wf, List.pairwise_cons]
        exact ⟨fun d hd => heq ▸ h.1 d hd, h.2⟩
      · next hge hne =>
        simp only [Memory.wf, List.pairwise_cons]
        refine ⟨fun d hd => ?_, ih h.2⟩
        rcases Memory.mem_write hd with hd | rfl
        · exact h.1 d hd
        · exact lt_of_le_of_ne (not_lt.mp hge) (Ne.symm hne)

/-- A run of writes keeps the canonical form. -/
theorem Memory.writeBytes_wf {m : Memory} (h : m.wf) (a : Nat) (bs : List Byte) : (m.writeBytes a bs).wf := by
  induction bs generalizing m a with
  | nil => exact h
  | cons b bs ih => exact ih (Memory.write_wf h a b) (a + 1)

/-- Every index of a buffer after a run of writes is one of the buffer's or lies in the run. -/
theorem Memory.mem_writeBytes {m : Memory} {a : Nat} {bs : List Byte} {c : Host.Cell}
    (h : c ∈ m.writeBytes a bs) : c ∈ m ∨ (a ≤ c.1 ∧ c.1 < a + bs.length) := by
  induction bs generalizing m a with
  | nil => exact .inl h
  | cons b bs ih =>
    rcases ih h with h | h
    · rcases Memory.mem_write h with h | rfl
      · exact .inl h
      · exact .inr ⟨le_refl _, by simp⟩
    · refine .inr ⟨by omega, ?_⟩
      simp only [List.length_cons]; omega

/-- A run of writes leaves every index outside the run alone. -/
theorem Memory.read_writeBytes_outside (m : Memory) {a a' : Nat} (bs : List Byte)
    (h : a' < a ∨ a + bs.length ≤ a') : (m.writeBytes a bs).read a' = m.read a' := by
  induction bs generalizing m a with
  | nil => rfl
  | cons b bs ih =>
    simp only [List.length_cons] at h
    rw [Memory.writeBytes, ih (m.write a b) (by omega), Memory.read_write_ne _ _ (by omega)]

/-- A run of writes is what an index inside it reads as. -/
theorem Memory.read_writeBytes_inside (m : Memory) {a i : Nat} (bs : List Byte) (h : i < bs.length) :
    (m.writeBytes a bs).read (a + i) = some bs[i] := by
  induction bs generalizing m a i with
  | nil => simp at h
  | cons b bs ih =>
    rw [Memory.writeBytes]
    cases i with
    | zero => rw [Nat.add_zero, Memory.read_writeBytes_outside _ _ (by omega)]; simp
    | succ i =>
      have := ih (m.write a b) (a := a + 1) (i := i) (by simpa using h)
      rw [show a + (i + 1) = a + 1 + i by omega, this]
      simp

/-- A run of reads is its bytes one by one. -/
theorem Memory.readBytes_eq_some {m : Memory} {a n : Nat} {bs : List Byte} :
    m.readBytes a n = some bs ↔ bs.length = n ∧ ∀ i (h : i < bs.length), m.read (a + i) = some bs[i] := by
  induction n generalizing a bs with
  | zero =>
    cases bs with
    | nil => simp [Memory.readBytes]
    | cons b bs => simp [Memory.readBytes]
  | succ n ih =>
    rw [Memory.readBytes]
    cases bs with
    | nil =>
      simp only [List.length_nil]
      constructor
      · intro h; split at h <;> simp at h
      · rintro ⟨h, -⟩; omega
    | cons b bs =>
      have key : ∀ {b' bs'}, m.read a = some b' → m.readBytes (a + 1) n = some bs' →
          (some (b' :: bs') = some (b :: bs) ↔ (b' = b ∧ bs' = bs)) := by
        intros; simp
      constructor
      · intro h
        split at h
        · next b' bs' hb hbs =>
          obtain ⟨rfl, rfl⟩ := (key hb hbs).1 h
          obtain ⟨hl, hr⟩ := ih.1 hbs
          refine ⟨by simp [hl], ?_⟩
          intro i hi
          cases i with
          | zero => simpa using hb
          | succ i =>
            have := hr i (by simpa using hi)
            rw [show a + (i + 1) = a + 1 + i by omega, this]; simp
        · cases h
      · rintro ⟨hl, hr⟩
        have hb : m.read a = some b := hr 0 (Nat.zero_lt_succ _)
        have hbs : m.readBytes (a + 1) n = some bs := by
          refine ih.2 ⟨by simpa using hl, fun i hi => ?_⟩
          have := hr (i + 1) (by simpa using hi)
          rw [show a + 1 + i = a + (i + 1) by omega, this]; simp
        simp [hb, hbs]

theorem Memory.length_of_readBytes {m : Memory} {a n : Nat} {bs : List Byte} (h : m.readBytes a n = some bs) :
    bs.length = n := (Memory.readBytes_eq_some.1 h).1

theorem Memory.read_of_readBytes {m : Memory} {a n i : Nat} {bs : List Byte} (h : m.readBytes a n = some bs)
    (hi : i < bs.length) : m.read (a + i) = some bs[i] := (Memory.readBytes_eq_some.1 h).2 i hi

/-- A run of bytes reads back after it was written. -/
@[simp] theorem Memory.readBytes_writeBytes (m : Memory) (a : Nat) (bs : List Byte) :
    (m.writeBytes a bs).readBytes a bs.length = some bs :=
  Memory.readBytes_eq_some.2 ⟨rfl, fun _ hi => Memory.read_writeBytes_inside m bs hi⟩

/-- Two buffers that agree on a run read alike there. -/
theorem Memory.readBytes_congr {m m' : Memory} {a n : Nat}
    (h : ∀ i, a ≤ i → i < a + n → m.read i = m'.read i) : m.readBytes a n = m'.readBytes a n := by
  induction n generalizing a with
  | zero => rfl
  | succ n ih =>
    rw [Memory.readBytes, Memory.readBytes, h a le_rfl (by omega), ih fun i h1 h2 => h i (by omega) (by omega)]

/-- A run reads as the concatenation of its two parts. -/
theorem Memory.readBytes_append {m : Memory} {a n k : Nat} {bs cs : List Byte} (h1 : m.readBytes a n = some bs)
    (h2 : m.readBytes (a + n) k = some cs) : m.readBytes a (n + k) = some (bs ++ cs) := by
  have l1 := Memory.length_of_readBytes h1
  have l2 := Memory.length_of_readBytes h2
  refine Memory.readBytes_eq_some.2 ⟨by simp [l1, l2], fun i hi => ?_⟩
  by_cases hin : i < bs.length
  · rw [Memory.read_of_readBytes h1 hin, List.getElem_append_left hin]
  · have hi' : i - bs.length < cs.length := by simp only [List.length_append] at hi; omega
    have := Memory.read_of_readBytes h2 hi'
    rw [show a + n + (i - bs.length) = a + i by omega] at this
    rw [this, List.getElem_append_right (not_lt.mp hin)]

/-- A run can be read exactly when each of its bytes has a value. -/
theorem Memory.readBytes_isSome {m : Memory} {a n : Nat} :
    (∃ bs, m.readBytes a n = some bs) ↔ ∀ i, a ≤ i → i < a + n → (m.read i).isSome = true := by
  induction n generalizing a with
  | zero => simp [Memory.readBytes]; omega
  | succ n ih =>
    constructor
    · rintro ⟨bs, h⟩ i h1 h2
      obtain ⟨hl, hr⟩ := Memory.readBytes_eq_some.1 h
      have := hr (i - a) (by omega)
      rw [show a + (i - a) = i by omega] at this
      simp [this]
    · intro h
      obtain ⟨bs, hbs⟩ := (ih (a := a + 1)).2 fun i h1 h2 => h i (by omega) (by omega)
      obtain ⟨b, hb⟩ := Option.isSome_iff_exists.1 (h a le_rfl (by omega))
      exact ⟨b :: bs, by simp [Memory.readBytes, hb, hbs]⟩

/-- One byte after a run reads. -/
theorem Memory.readBytes_succ {m : Memory} {a n : Nat} {bs : List Byte} {b : Byte} (h1 : m.readBytes a n = some bs)
    (h2 : m.read (a + n) = some b) : m.readBytes a (n + 1) = some (bs ++ [b]) :=
  Memory.readBytes_append h1 (by simp [Memory.readBytes, h2])

end Sys2Proof.Machine
end

