-- ==== Sys2Proof/Laws/State.lean ====
section
/-! SUPPORT. The named updates of State field by field, so that no proof unfolds a record update: one lemma per field
per update, each true by rfl. -/

namespace Sys2Proof.Machine

section
variable (s : State) (st : Status) (v : Word)

@[simp] theorem State.respond_cfg : (s.respond st v).cfg = s.cfg := rfl
@[simp] theorem State.respond_cmd : (s.respond st v).cmd = s.cmd := rfl
@[simp] theorem State.respond_arg : (s.respond st v).arg = s.arg := rfl
@[simp] theorem State.respond_busy : (s.respond st v).busy = false := rfl
@[simp] theorem State.respond_status : (s.respond st v).status = st.code := rfl
@[simp] theorem State.respond_result : (s.respond st v).result = v := rfl
@[simp] theorem State.respond_txb : (s.respond st v).txb = s.txb := rfl
@[simp] theorem State.respond_txLen : (s.respond st v).txLen = s.txLen := rfl
@[simp] theorem State.respond_rxb : (s.respond st v).rxb = s.rxb := rfl
@[simp] theorem State.respond_rxIdx : (s.respond st v).rxIdx = s.rxIdx := rfl
@[simp] theorem State.respond_rxOvf : (s.respond st v).rxOvf = s.rxOvf := rfl
@[simp] theorem State.respond_rxLen : (s.respond st v).rxLen = s.rxLen := rfl
@[simp] theorem State.respond_extractPos : (s.respond st v).extractPos = s.extractPos := rfl
@[simp] theorem State.respond_pktValid : (s.respond st v).pktValid = s.pktValid := rfl
@[simp] theorem State.respond_tin : (s.respond st v).tin = s.tin := rfl
@[simp] theorem State.respond_tout : (s.respond st v).tout = s.tout := rfl
@[simp] theorem State.respond_script : (s.respond st v).script = s.script := rfl
@[simp] theorem State.respond_onward : (s.respond st v).onward = s.onward := rfl

end

section
variable (s : State) (st : Status)

@[simp] theorem State.raise_cfg : (s.raise st).cfg = s.cfg := rfl
@[simp] theorem State.raise_cmd : (s.raise st).cmd = s.cmd := rfl
@[simp] theorem State.raise_arg : (s.raise st).arg = s.arg := rfl
@[simp] theorem State.raise_busy : (s.raise st).busy = false := rfl
@[simp] theorem State.raise_status : (s.raise st).status = st.code := rfl
@[simp] theorem State.raise_result : (s.raise st).result = 0 := rfl
@[simp] theorem State.raise_txb : (s.raise st).txb = s.txb := rfl
@[simp] theorem State.raise_txLen : (s.raise st).txLen = s.txLen := rfl
@[simp] theorem State.raise_rxb : (s.raise st).rxb = s.rxb := rfl
@[simp] theorem State.raise_rxIdx : (s.raise st).rxIdx = s.rxIdx := rfl
@[simp] theorem State.raise_rxOvf : (s.raise st).rxOvf = s.rxOvf := rfl
@[simp] theorem State.raise_rxLen : (s.raise st).rxLen = s.rxLen := rfl
@[simp] theorem State.raise_extractPos : (s.raise st).extractPos = s.extractPos := rfl
@[simp] theorem State.raise_pktValid : (s.raise st).pktValid = s.pktValid := rfl
@[simp] theorem State.raise_tin : (s.raise st).tin = s.tin := rfl
@[simp] theorem State.raise_tout : (s.raise st).tout = s.tout := rfl
@[simp] theorem State.raise_script : (s.raise st).script = s.script := rfl
@[simp] theorem State.raise_onward : (s.raise st).onward = s.onward := rfl

end

section
variable (s : State) (m : Memory) (n : Nat)

@[simp] theorem State.setTx_cfg : (s.setTx m n).cfg = s.cfg := rfl
@[simp] theorem State.setTx_cmd : (s.setTx m n).cmd = s.cmd := rfl
@[simp] theorem State.setTx_arg : (s.setTx m n).arg = s.arg := rfl
@[simp] theorem State.setTx_busy : (s.setTx m n).busy = s.busy := rfl
@[simp] theorem State.setTx_status : (s.setTx m n).status = s.status := rfl
@[simp] theorem State.setTx_result : (s.setTx m n).result = s.result := rfl
@[simp] theorem State.setTx_txb : (s.setTx m n).txb = m := rfl
@[simp] theorem State.setTx_txLen : (s.setTx m n).txLen = BitVec.ofNat 8 n := rfl
@[simp] theorem State.setTx_rxb : (s.setTx m n).rxb = s.rxb := rfl
@[simp] theorem State.setTx_rxIdx : (s.setTx m n).rxIdx = s.rxIdx := rfl
@[simp] theorem State.setTx_rxOvf : (s.setTx m n).rxOvf = s.rxOvf := rfl
@[simp] theorem State.setTx_rxLen : (s.setTx m n).rxLen = s.rxLen := rfl
@[simp] theorem State.setTx_extractPos : (s.setTx m n).extractPos = s.extractPos := rfl
@[simp] theorem State.setTx_pktValid : (s.setTx m n).pktValid = s.pktValid := rfl
@[simp] theorem State.setTx_tin : (s.setTx m n).tin = s.tin := rfl
@[simp] theorem State.setTx_tout : (s.setTx m n).tout = s.tout := rfl
@[simp] theorem State.setTx_script : (s.setTx m n).script = s.script := rfl
@[simp] theorem State.setTx_onward : (s.setTx m n).onward = s.onward := rfl

end

section
variable (s : State) (bs : List Byte)

@[simp] theorem State.emit_cfg : (s.emit bs).cfg = s.cfg := rfl
@[simp] theorem State.emit_cmd : (s.emit bs).cmd = s.cmd := rfl
@[simp] theorem State.emit_arg : (s.emit bs).arg = s.arg := rfl
@[simp] theorem State.emit_busy : (s.emit bs).busy = s.busy := rfl
@[simp] theorem State.emit_status : (s.emit bs).status = s.status := rfl
@[simp] theorem State.emit_result : (s.emit bs).result = s.result := rfl
@[simp] theorem State.emit_txb : (s.emit bs).txb = s.txb := rfl
@[simp] theorem State.emit_txLen : (s.emit bs).txLen = s.txLen := rfl
@[simp] theorem State.emit_rxb : (s.emit bs).rxb = s.rxb := rfl
@[simp] theorem State.emit_rxIdx : (s.emit bs).rxIdx = s.rxIdx := rfl
@[simp] theorem State.emit_rxOvf : (s.emit bs).rxOvf = s.rxOvf := rfl
@[simp] theorem State.emit_rxLen : (s.emit bs).rxLen = s.rxLen := rfl
@[simp] theorem State.emit_extractPos : (s.emit bs).extractPos = s.extractPos := rfl
@[simp] theorem State.emit_pktValid : (s.emit bs).pktValid = s.pktValid := rfl
@[simp] theorem State.emit_tin : (s.emit bs).tin = s.tin := rfl
@[simp] theorem State.emit_tout : (s.emit bs).tout = s.tout ++ bs := rfl
@[simp] theorem State.emit_script : (s.emit bs).script = s.script := rfl
@[simp] theorem State.emit_onward : (s.emit bs).onward = s.onward := rfl

end

section
variable (s : State) (rest : List Byte) (m : Memory)

@[simp] theorem State.takeByte_cfg : (s.takeByte rest m).cfg = s.cfg := rfl
@[simp] theorem State.takeByte_cmd : (s.takeByte rest m).cmd = s.cmd := rfl
@[simp] theorem State.takeByte_arg : (s.takeByte rest m).arg = s.arg := rfl
@[simp] theorem State.takeByte_busy : (s.takeByte rest m).busy = s.busy := rfl
@[simp] theorem State.takeByte_status : (s.takeByte rest m).status = s.status := rfl
@[simp] theorem State.takeByte_result : (s.takeByte rest m).result = s.result := rfl
@[simp] theorem State.takeByte_txb : (s.takeByte rest m).txb = s.txb := rfl
@[simp] theorem State.takeByte_txLen : (s.takeByte rest m).txLen = s.txLen := rfl
@[simp] theorem State.takeByte_rxb : (s.takeByte rest m).rxb = m := rfl
@[simp] theorem State.takeByte_rxIdx : (s.takeByte rest m).rxIdx = s.rxIdx := rfl
@[simp] theorem State.takeByte_rxOvf : (s.takeByte rest m).rxOvf = s.rxOvf := rfl
@[simp] theorem State.takeByte_rxLen : (s.takeByte rest m).rxLen = s.rxLen := rfl
@[simp] theorem State.takeByte_extractPos : (s.takeByte rest m).extractPos = s.extractPos := rfl
@[simp] theorem State.takeByte_pktValid : (s.takeByte rest m).pktValid = false := rfl
@[simp] theorem State.takeByte_tin : (s.takeByte rest m).tin = rest := rfl
@[simp] theorem State.takeByte_tout : (s.takeByte rest m).tout = s.tout := rfl
@[simp] theorem State.takeByte_script : (s.takeByte rest m).script = s.script := rfl
@[simp] theorem State.takeByte_onward : (s.takeByte rest m).onward = s.onward := rfl

end

section
variable (s : State) (n : Nat)

@[simp] theorem State.setRxIdx_cfg : (s.setRxIdx n).cfg = s.cfg := rfl
@[simp] theorem State.setRxIdx_cmd : (s.setRxIdx n).cmd = s.cmd := rfl
@[simp] theorem State.setRxIdx_arg : (s.setRxIdx n).arg = s.arg := rfl
@[simp] theorem State.setRxIdx_busy : (s.setRxIdx n).busy = s.busy := rfl
@[simp] theorem State.setRxIdx_status : (s.setRxIdx n).status = s.status := rfl
@[simp] theorem State.setRxIdx_result : (s.setRxIdx n).result = s.result := rfl
@[simp] theorem State.setRxIdx_txb : (s.setRxIdx n).txb = s.txb := rfl
@[simp] theorem State.setRxIdx_txLen : (s.setRxIdx n).txLen = s.txLen := rfl
@[simp] theorem State.setRxIdx_rxb : (s.setRxIdx n).rxb = s.rxb := rfl
@[simp] theorem State.setRxIdx_rxIdx : (s.setRxIdx n).rxIdx = BitVec.ofNat 8 n := rfl
@[simp] theorem State.setRxIdx_rxOvf : (s.setRxIdx n).rxOvf = s.rxOvf := rfl
@[simp] theorem State.setRxIdx_rxLen : (s.setRxIdx n).rxLen = s.rxLen := rfl
@[simp] theorem State.setRxIdx_extractPos : (s.setRxIdx n).extractPos = s.extractPos := rfl
@[simp] theorem State.setRxIdx_pktValid : (s.setRxIdx n).pktValid = s.pktValid := rfl
@[simp] theorem State.setRxIdx_tin : (s.setRxIdx n).tin = s.tin := rfl
@[simp] theorem State.setRxIdx_tout : (s.setRxIdx n).tout = s.tout := rfl
@[simp] theorem State.setRxIdx_script : (s.setRxIdx n).script = s.script := rfl
@[simp] theorem State.setRxIdx_onward : (s.setRxIdx n).onward = s.onward := rfl

end

section
variable (s : State) (b : Bool)

@[simp] theorem State.setRxOvf_cfg : (s.setRxOvf b).cfg = s.cfg := rfl
@[simp] theorem State.setRxOvf_cmd : (s.setRxOvf b).cmd = s.cmd := rfl
@[simp] theorem State.setRxOvf_arg : (s.setRxOvf b).arg = s.arg := rfl
@[simp] theorem State.setRxOvf_busy : (s.setRxOvf b).busy = s.busy := rfl
@[simp] theorem State.setRxOvf_status : (s.setRxOvf b).status = s.status := rfl
@[simp] theorem State.setRxOvf_result : (s.setRxOvf b).result = s.result := rfl
@[simp] theorem State.setRxOvf_txb : (s.setRxOvf b).txb = s.txb := rfl
@[simp] theorem State.setRxOvf_txLen : (s.setRxOvf b).txLen = s.txLen := rfl
@[simp] theorem State.setRxOvf_rxb : (s.setRxOvf b).rxb = s.rxb := rfl
@[simp] theorem State.setRxOvf_rxIdx : (s.setRxOvf b).rxIdx = s.rxIdx := rfl
@[simp] theorem State.setRxOvf_rxOvf : (s.setRxOvf b).rxOvf = b := rfl
@[simp] theorem State.setRxOvf_rxLen : (s.setRxOvf b).rxLen = s.rxLen := rfl
@[simp] theorem State.setRxOvf_extractPos : (s.setRxOvf b).extractPos = s.extractPos := rfl
@[simp] theorem State.setRxOvf_pktValid : (s.setRxOvf b).pktValid = s.pktValid := rfl
@[simp] theorem State.setRxOvf_tin : (s.setRxOvf b).tin = s.tin := rfl
@[simp] theorem State.setRxOvf_tout : (s.setRxOvf b).tout = s.tout := rfl
@[simp] theorem State.setRxOvf_script : (s.setRxOvf b).script = s.script := rfl
@[simp] theorem State.setRxOvf_onward : (s.setRxOvf b).onward = s.onward := rfl

end

section
variable (s : State) (n : Nat)

@[simp] theorem State.setRxLen_cfg : (s.setRxLen n).cfg = s.cfg := rfl
@[simp] theorem State.setRxLen_cmd : (s.setRxLen n).cmd = s.cmd := rfl
@[simp] theorem State.setRxLen_arg : (s.setRxLen n).arg = s.arg := rfl
@[simp] theorem State.setRxLen_busy : (s.setRxLen n).busy = s.busy := rfl
@[simp] theorem State.setRxLen_status : (s.setRxLen n).status = s.status := rfl
@[simp] theorem State.setRxLen_result : (s.setRxLen n).result = s.result := rfl
@[simp] theorem State.setRxLen_txb : (s.setRxLen n).txb = s.txb := rfl
@[simp] theorem State.setRxLen_txLen : (s.setRxLen n).txLen = s.txLen := rfl
@[simp] theorem State.setRxLen_rxb : (s.setRxLen n).rxb = s.rxb := rfl
@[simp] theorem State.setRxLen_rxIdx : (s.setRxLen n).rxIdx = s.rxIdx := rfl
@[simp] theorem State.setRxLen_rxOvf : (s.setRxLen n).rxOvf = s.rxOvf := rfl
@[simp] theorem State.setRxLen_rxLen : (s.setRxLen n).rxLen = BitVec.ofNat 8 n := rfl
@[simp] theorem State.setRxLen_extractPos : (s.setRxLen n).extractPos = s.extractPos := rfl
@[simp] theorem State.setRxLen_pktValid : (s.setRxLen n).pktValid = s.pktValid := rfl
@[simp] theorem State.setRxLen_tin : (s.setRxLen n).tin = s.tin := rfl
@[simp] theorem State.setRxLen_tout : (s.setRxLen n).tout = s.tout := rfl
@[simp] theorem State.setRxLen_script : (s.setRxLen n).script = s.script := rfl
@[simp] theorem State.setRxLen_onward : (s.setRxLen n).onward = s.onward := rfl

end

section
variable (s : State) (m : Memory)

@[simp] theorem State.setRxb_cfg : (s.setRxb m).cfg = s.cfg := rfl
@[simp] theorem State.setRxb_cmd : (s.setRxb m).cmd = s.cmd := rfl
@[simp] theorem State.setRxb_arg : (s.setRxb m).arg = s.arg := rfl
@[simp] theorem State.setRxb_busy : (s.setRxb m).busy = s.busy := rfl
@[simp] theorem State.setRxb_status : (s.setRxb m).status = s.status := rfl
@[simp] theorem State.setRxb_result : (s.setRxb m).result = s.result := rfl
@[simp] theorem State.setRxb_txb : (s.setRxb m).txb = s.txb := rfl
@[simp] theorem State.setRxb_txLen : (s.setRxb m).txLen = s.txLen := rfl
@[simp] theorem State.setRxb_rxb : (s.setRxb m).rxb = m := rfl
@[simp] theorem State.setRxb_rxIdx : (s.setRxb m).rxIdx = s.rxIdx := rfl
@[simp] theorem State.setRxb_rxOvf : (s.setRxb m).rxOvf = s.rxOvf := rfl
@[simp] theorem State.setRxb_rxLen : (s.setRxb m).rxLen = s.rxLen := rfl
@[simp] theorem State.setRxb_extractPos : (s.setRxb m).extractPos = s.extractPos := rfl
@[simp] theorem State.setRxb_pktValid : (s.setRxb m).pktValid = s.pktValid := rfl
@[simp] theorem State.setRxb_tin : (s.setRxb m).tin = s.tin := rfl
@[simp] theorem State.setRxb_tout : (s.setRxb m).tout = s.tout := rfl
@[simp] theorem State.setRxb_script : (s.setRxb m).script = s.script := rfl
@[simp] theorem State.setRxb_onward : (s.setRxb m).onward = s.onward := rfl

end

section
variable (s : State) (n : Nat)

@[simp] theorem State.deliver_cfg : (s.deliver n).cfg = s.cfg := rfl
@[simp] theorem State.deliver_cmd : (s.deliver n).cmd = s.cmd := rfl
@[simp] theorem State.deliver_arg : (s.deliver n).arg = s.arg := rfl
@[simp] theorem State.deliver_busy : (s.deliver n).busy = s.busy := rfl
@[simp] theorem State.deliver_status : (s.deliver n).status = s.status := rfl
@[simp] theorem State.deliver_result : (s.deliver n).result = s.result := rfl
@[simp] theorem State.deliver_txb : (s.deliver n).txb = s.txb := rfl
@[simp] theorem State.deliver_txLen : (s.deliver n).txLen = s.txLen := rfl
@[simp] theorem State.deliver_rxb : (s.deliver n).rxb = s.rxb := rfl
@[simp] theorem State.deliver_rxIdx : (s.deliver n).rxIdx = s.rxIdx := rfl
@[simp] theorem State.deliver_rxOvf : (s.deliver n).rxOvf = s.rxOvf := rfl
@[simp] theorem State.deliver_rxLen : (s.deliver n).rxLen = BitVec.ofNat 8 n := rfl
@[simp] theorem State.deliver_extractPos : (s.deliver n).extractPos = 0 := rfl
@[simp] theorem State.deliver_pktValid : (s.deliver n).pktValid = true := rfl
@[simp] theorem State.deliver_tin : (s.deliver n).tin = s.tin := rfl
@[simp] theorem State.deliver_tout : (s.deliver n).tout = s.tout := rfl
@[simp] theorem State.deliver_script : (s.deliver n).script = s.script := rfl
@[simp] theorem State.deliver_onward : (s.deliver n).onward = s.onward := rfl

end

section
variable (s : State) (n : Nat)

@[simp] theorem State.setExtractPos_cfg : (s.setExtractPos n).cfg = s.cfg := rfl
@[simp] theorem State.setExtractPos_cmd : (s.setExtractPos n).cmd = s.cmd := rfl
@[simp] theorem State.setExtractPos_arg : (s.setExtractPos n).arg = s.arg := rfl
@[simp] theorem State.setExtractPos_busy : (s.setExtractPos n).busy = s.busy := rfl
@[simp] theorem State.setExtractPos_status : (s.setExtractPos n).status = s.status := rfl
@[simp] theorem State.setExtractPos_result : (s.setExtractPos n).result = s.result := rfl
@[simp] theorem State.setExtractPos_txb : (s.setExtractPos n).txb = s.txb := rfl
@[simp] theorem State.setExtractPos_txLen : (s.setExtractPos n).txLen = s.txLen := rfl
@[simp] theorem State.setExtractPos_rxb : (s.setExtractPos n).rxb = s.rxb := rfl
@[simp] theorem State.setExtractPos_rxIdx : (s.setExtractPos n).rxIdx = s.rxIdx := rfl
@[simp] theorem State.setExtractPos_rxOvf : (s.setExtractPos n).rxOvf = s.rxOvf := rfl
@[simp] theorem State.setExtractPos_rxLen : (s.setExtractPos n).rxLen = s.rxLen := rfl
@[simp] theorem State.setExtractPos_extractPos : (s.setExtractPos n).extractPos = BitVec.ofNat 8 n := rfl
@[simp] theorem State.setExtractPos_pktValid : (s.setExtractPos n).pktValid = s.pktValid := rfl
@[simp] theorem State.setExtractPos_tin : (s.setExtractPos n).tin = s.tin := rfl
@[simp] theorem State.setExtractPos_tout : (s.setExtractPos n).tout = s.tout := rfl
@[simp] theorem State.setExtractPos_script : (s.setExtractPos n).script = s.script := rfl
@[simp] theorem State.setExtractPos_onward : (s.setExtractPos n).onward = s.onward := rfl

end

section
variable (s : State) (c : Command)

@[simp] theorem State.present_cfg : (s.present c).cfg = s.cfg := rfl
@[simp] theorem State.present_cmd : (s.present c).cmd = c.cmd := rfl
@[simp] theorem State.present_arg : (s.present c).arg = c.arg := rfl
@[simp] theorem State.present_busy : (s.present c).busy = true := rfl
@[simp] theorem State.present_status : (s.present c).status = s.status := rfl
@[simp] theorem State.present_result : (s.present c).result = s.result := rfl
@[simp] theorem State.present_txb : (s.present c).txb = s.txb := rfl
@[simp] theorem State.present_txLen : (s.present c).txLen = s.txLen := rfl
@[simp] theorem State.present_rxb : (s.present c).rxb = s.rxb := rfl
@[simp] theorem State.present_rxIdx : (s.present c).rxIdx = s.rxIdx := rfl
@[simp] theorem State.present_rxOvf : (s.present c).rxOvf = s.rxOvf := rfl
@[simp] theorem State.present_rxLen : (s.present c).rxLen = s.rxLen := rfl
@[simp] theorem State.present_extractPos : (s.present c).extractPos = s.extractPos := rfl
@[simp] theorem State.present_pktValid : (s.present c).pktValid = s.pktValid := rfl
@[simp] theorem State.present_tin : (s.present c).tin = s.tin := rfl
@[simp] theorem State.present_tout : (s.present c).tout = s.tout := rfl
@[simp] theorem State.present_script : (s.present c).script = s.script := rfl
@[simp] theorem State.present_onward : (s.present c).onward = s.onward := rfl

end

section
variable (s : State) (bs : List Byte)

@[simp] theorem State.setTin_cfg : (s.setTin bs).cfg = s.cfg := rfl
@[simp] theorem State.setTin_cmd : (s.setTin bs).cmd = s.cmd := rfl
@[simp] theorem State.setTin_arg : (s.setTin bs).arg = s.arg := rfl
@[simp] theorem State.setTin_busy : (s.setTin bs).busy = s.busy := rfl
@[simp] theorem State.setTin_status : (s.setTin bs).status = s.status := rfl
@[simp] theorem State.setTin_result : (s.setTin bs).result = s.result := rfl
@[simp] theorem State.setTin_txb : (s.setTin bs).txb = s.txb := rfl
@[simp] theorem State.setTin_txLen : (s.setTin bs).txLen = s.txLen := rfl
@[simp] theorem State.setTin_rxb : (s.setTin bs).rxb = s.rxb := rfl
@[simp] theorem State.setTin_rxIdx : (s.setTin bs).rxIdx = s.rxIdx := rfl
@[simp] theorem State.setTin_rxOvf : (s.setTin bs).rxOvf = s.rxOvf := rfl
@[simp] theorem State.setTin_rxLen : (s.setTin bs).rxLen = s.rxLen := rfl
@[simp] theorem State.setTin_extractPos : (s.setTin bs).extractPos = s.extractPos := rfl
@[simp] theorem State.setTin_pktValid : (s.setTin bs).pktValid = s.pktValid := rfl
@[simp] theorem State.setTin_tin : (s.setTin bs).tin = bs := rfl
@[simp] theorem State.setTin_tout : (s.setTin bs).tout = s.tout := rfl
@[simp] theorem State.setTin_script : (s.setTin bs).script = s.script := rfl
@[simp] theorem State.setTin_onward : (s.setTin bs).onward = s.onward := rfl

end

section
variable (s : State) (bs : List Byte)

@[simp] theorem State.setTout_cfg : (s.setTout bs).cfg = s.cfg := rfl
@[simp] theorem State.setTout_cmd : (s.setTout bs).cmd = s.cmd := rfl
@[simp] theorem State.setTout_arg : (s.setTout bs).arg = s.arg := rfl
@[simp] theorem State.setTout_busy : (s.setTout bs).busy = s.busy := rfl
@[simp] theorem State.setTout_status : (s.setTout bs).status = s.status := rfl
@[simp] theorem State.setTout_result : (s.setTout bs).result = s.result := rfl
@[simp] theorem State.setTout_txb : (s.setTout bs).txb = s.txb := rfl
@[simp] theorem State.setTout_txLen : (s.setTout bs).txLen = s.txLen := rfl
@[simp] theorem State.setTout_rxb : (s.setTout bs).rxb = s.rxb := rfl
@[simp] theorem State.setTout_rxIdx : (s.setTout bs).rxIdx = s.rxIdx := rfl
@[simp] theorem State.setTout_rxOvf : (s.setTout bs).rxOvf = s.rxOvf := rfl
@[simp] theorem State.setTout_rxLen : (s.setTout bs).rxLen = s.rxLen := rfl
@[simp] theorem State.setTout_extractPos : (s.setTout bs).extractPos = s.extractPos := rfl
@[simp] theorem State.setTout_pktValid : (s.setTout bs).pktValid = s.pktValid := rfl
@[simp] theorem State.setTout_tin : (s.setTout bs).tin = s.tin := rfl
@[simp] theorem State.setTout_tout : (s.setTout bs).tout = bs := rfl
@[simp] theorem State.setTout_script : (s.setTout bs).script = s.script := rfl
@[simp] theorem State.setTout_onward : (s.setTout bs).onward = s.onward := rfl

end

section
variable (s : State) (ts : List Turn)

@[simp] theorem State.setScript_cfg : (s.setScript ts).cfg = s.cfg := rfl
@[simp] theorem State.setScript_cmd : (s.setScript ts).cmd = s.cmd := rfl
@[simp] theorem State.setScript_arg : (s.setScript ts).arg = s.arg := rfl
@[simp] theorem State.setScript_busy : (s.setScript ts).busy = s.busy := rfl
@[simp] theorem State.setScript_status : (s.setScript ts).status = s.status := rfl
@[simp] theorem State.setScript_result : (s.setScript ts).result = s.result := rfl
@[simp] theorem State.setScript_txb : (s.setScript ts).txb = s.txb := rfl
@[simp] theorem State.setScript_txLen : (s.setScript ts).txLen = s.txLen := rfl
@[simp] theorem State.setScript_rxb : (s.setScript ts).rxb = s.rxb := rfl
@[simp] theorem State.setScript_rxIdx : (s.setScript ts).rxIdx = s.rxIdx := rfl
@[simp] theorem State.setScript_rxOvf : (s.setScript ts).rxOvf = s.rxOvf := rfl
@[simp] theorem State.setScript_rxLen : (s.setScript ts).rxLen = s.rxLen := rfl
@[simp] theorem State.setScript_extractPos : (s.setScript ts).extractPos = s.extractPos := rfl
@[simp] theorem State.setScript_pktValid : (s.setScript ts).pktValid = s.pktValid := rfl
@[simp] theorem State.setScript_tin : (s.setScript ts).tin = s.tin := rfl
@[simp] theorem State.setScript_tout : (s.setScript ts).tout = s.tout := rfl
@[simp] theorem State.setScript_script : (s.setScript ts).script = ts := rfl
@[simp] theorem State.setScript_onward : (s.setScript ts).onward = s.onward := rfl

end

section
variable (s : State) (o : Onward)

@[simp] theorem State.setOnward_cfg : (s.setOnward o).cfg = s.cfg := rfl
@[simp] theorem State.setOnward_cmd : (s.setOnward o).cmd = s.cmd := rfl
@[simp] theorem State.setOnward_arg : (s.setOnward o).arg = s.arg := rfl
@[simp] theorem State.setOnward_busy : (s.setOnward o).busy = s.busy := rfl
@[simp] theorem State.setOnward_status : (s.setOnward o).status = s.status := rfl
@[simp] theorem State.setOnward_result : (s.setOnward o).result = s.result := rfl
@[simp] theorem State.setOnward_txb : (s.setOnward o).txb = s.txb := rfl
@[simp] theorem State.setOnward_txLen : (s.setOnward o).txLen = s.txLen := rfl
@[simp] theorem State.setOnward_rxb : (s.setOnward o).rxb = s.rxb := rfl
@[simp] theorem State.setOnward_rxIdx : (s.setOnward o).rxIdx = s.rxIdx := rfl
@[simp] theorem State.setOnward_rxOvf : (s.setOnward o).rxOvf = s.rxOvf := rfl
@[simp] theorem State.setOnward_rxLen : (s.setOnward o).rxLen = s.rxLen := rfl
@[simp] theorem State.setOnward_extractPos : (s.setOnward o).extractPos = s.extractPos := rfl
@[simp] theorem State.setOnward_pktValid : (s.setOnward o).pktValid = s.pktValid := rfl
@[simp] theorem State.setOnward_tin : (s.setOnward o).tin = s.tin := rfl
@[simp] theorem State.setOnward_tout : (s.setOnward o).tout = s.tout := rfl
@[simp] theorem State.setOnward_script : (s.setOnward o).script = s.script := rfl
@[simp] theorem State.setOnward_onward : (s.setOnward o).onward = o := rfl

end

section
variable (s : State)

@[simp] theorem State.afterReset_cfg : (s.afterReset).cfg = s.cfg := rfl
@[simp] theorem State.afterReset_cmd : (s.afterReset).cmd = 0 := rfl
@[simp] theorem State.afterReset_arg : (s.afterReset).arg = 0 := rfl
@[simp] theorem State.afterReset_busy : (s.afterReset).busy = false := rfl
@[simp] theorem State.afterReset_status : (s.afterReset).status = 0 := rfl
@[simp] theorem State.afterReset_result : (s.afterReset).result = 0 := rfl
@[simp] theorem State.afterReset_txb : (s.afterReset).txb = [] := rfl
@[simp] theorem State.afterReset_txLen : (s.afterReset).txLen = 0 := rfl
@[simp] theorem State.afterReset_rxb : (s.afterReset).rxb = [] := rfl
@[simp] theorem State.afterReset_rxIdx : (s.afterReset).rxIdx = 0 := rfl
@[simp] theorem State.afterReset_rxOvf : (s.afterReset).rxOvf = false := rfl
@[simp] theorem State.afterReset_rxLen : (s.afterReset).rxLen = 0 := rfl
@[simp] theorem State.afterReset_extractPos : (s.afterReset).extractPos = 0 := rfl
@[simp] theorem State.afterReset_pktValid : (s.afterReset).pktValid = false := rfl
@[simp] theorem State.afterReset_tin : (s.afterReset).tin = s.tin := rfl
@[simp] theorem State.afterReset_tout : (s.afterReset).tout = s.tout := rfl
@[simp] theorem State.afterReset_script : (s.afterReset).script = s.script := rfl
@[simp] theorem State.afterReset_onward : (s.afterReset).onward = s.onward := rfl

end

section
variable (cfg : Config)

@[simp] theorem State.resetOf_cfg : (State.resetOf cfg).cfg = cfg := rfl
@[simp] theorem State.resetOf_cmd : (State.resetOf cfg).cmd = 0 := rfl
@[simp] theorem State.resetOf_arg : (State.resetOf cfg).arg = 0 := rfl
@[simp] theorem State.resetOf_busy : (State.resetOf cfg).busy = false := rfl
@[simp] theorem State.resetOf_status : (State.resetOf cfg).status = 0 := rfl
@[simp] theorem State.resetOf_result : (State.resetOf cfg).result = 0 := rfl
@[simp] theorem State.resetOf_txb : (State.resetOf cfg).txb = [] := rfl
@[simp] theorem State.resetOf_txLen : (State.resetOf cfg).txLen = 0 := rfl
@[simp] theorem State.resetOf_rxb : (State.resetOf cfg).rxb = [] := rfl
@[simp] theorem State.resetOf_rxIdx : (State.resetOf cfg).rxIdx = 0 := rfl
@[simp] theorem State.resetOf_rxOvf : (State.resetOf cfg).rxOvf = false := rfl
@[simp] theorem State.resetOf_rxLen : (State.resetOf cfg).rxLen = 0 := rfl
@[simp] theorem State.resetOf_extractPos : (State.resetOf cfg).extractPos = 0 := rfl
@[simp] theorem State.resetOf_pktValid : (State.resetOf cfg).pktValid = false := rfl
@[simp] theorem State.resetOf_tin : (State.resetOf cfg).tin = [] := rfl
@[simp] theorem State.resetOf_tout : (State.resetOf cfg).tout = [] := rfl
@[simp] theorem State.resetOf_script : (State.resetOf cfg).script = [] := rfl
@[simp] theorem State.resetOf_onward : (State.resetOf cfg).onward = .quiet := rfl

end

end Sys2Proof.Machine
end

