-- ==== Sys2Proof/Laws/Ops.lean ====
section
/-! SUPPORT. What the checked accesses can answer. -/

namespace Sys2Proof.Machine

/-- MemRead answers exactly the bytes of a run that lies in the buffer and has values. -/
theorem memRead_ok {m : Memory} {size a n : Nat} {bs : List Byte} :
    memRead m size a n = .ok bs ↔ a + n ≤ size ∧ m.readBytes a n = some bs := by
  unfold memRead
  split
  · cases m.readBytes a n <;> simp [*]
  · simp [*]

/-- MemWrite answers exactly the buffer with the run written, when it lies in the buffer. -/
theorem memWrite_ok {m m' : Memory} {size a : Nat} {bs : List Byte} :
    memWrite m size a bs = .ok m' ↔ a + bs.length ≤ size ∧ m' = m.writeBytes a bs := by
  unfold memWrite
  split <;> simp [*, eq_comm]

/-- An access followed by the rest of a meaning answers a next state only through the access's result. -/
theorem orFault_next {α : Type} {r : Except Fault α} {k : α → Result} {t : State} :
    orFault r k = .next t ↔ ∃ x, r = .ok x ∧ k x = .next t := by
  cases r <;> simp [orFault]

@[simp] theorem orFault_ok {α : Type} (x : α) (k : α → Result) : orFault (.ok x) k = k x := rfl

@[simp] theorem orFault_error {α : Type} (f : Fault) (k : α → Result) : orFault (.error f) k = .fault f := rfl

end Sys2Proof.Machine
end

