-- ==== Sys2Proof/Laws/Extract.lean ====
section
/-! SUPPORT. What field extraction can answer. -/

namespace Sys2Proof.Machine

/-- EXTRACT_FIELD with no packet raises NO_PACKET (R132). -/
theorem extractField_noPacket {w : Width} {s : State} (h : s.pktValid = false) :
    extractField w s = .next (s.raise .noPacket) := by
  simp [extractField, h]

/-- EXTRACT_FIELD past the payload raises OUT_OF_DATA (R132). -/
theorem extractField_outOfData {w : Width} {s : State} (h : s.pktValid = true)
    (hp : s.extractPos.toNat + widthBytes w > s.rxLen.toNat) :
    extractField w s = .next (s.raise .outOfData) := by
  simp [extractField, h, hp]

/-- EXTRACT_FIELD inside the payload answers the field and advances EXTRACT_POS (R132). -/
theorem extractField_field {w : Width} {s : State} {bs : List Byte} (h : s.pktValid = true)
    (hp : s.extractPos.toNat + widthBytes w ≤ s.rxLen.toNat) (hc : s.rxLen.toNat ≤ s.cfg.rxcap)
    (hb : s.rxb.readBytes s.extractPos.toNat (widthBytes w) = some bs) :
    extractField w s = .next ((s.setExtractPos (s.extractPos.toNat + widthBytes w)).respond .ok
      (ofLanes (reverseField s.cfg.rev w bs))) := by
  have h1 : memRead s.rxb s.cfg.rxcap s.extractPos.toNat (widthBytes w) = .ok bs := memRead_ok.2 ⟨by omega, hb⟩
  simp [extractField, h, not_lt.mpr hp, h1]

/-- Everything EXTRACT_FIELD can answer with a next state. -/
theorem extractField_cases {w : Width} {s t : State} (h : extractField w s = .next t) :
    (s.pktValid = false ∧ t = s.raise .noPacket) ∨
    (s.pktValid = true ∧ s.extractPos.toNat + widthBytes w > s.rxLen.toNat ∧ t = s.raise .outOfData) ∨
    (s.pktValid = true ∧ s.extractPos.toNat + widthBytes w ≤ s.rxLen.toNat ∧ ∃ bs,
      s.rxb.readBytes s.extractPos.toNat (widthBytes w) = some bs ∧
      t = (s.setExtractPos (s.extractPos.toNat + widthBytes w)).respond .ok
        (ofLanes (reverseField s.cfg.rev w bs))) := by
  cases hv : s.pktValid with
  | false => rw [extractField_noPacket hv] at h; exact .inl ⟨rfl, by simpa using h.symm⟩
  | true =>
    refine .inr ?_
    by_cases hp : s.extractPos.toNat + widthBytes w > s.rxLen.toNat
    · rw [extractField_outOfData hv hp] at h; exact .inl ⟨rfl, hp, by simpa using h.symm⟩
    · simp only [extractField, hv, Bool.true_eq_false, if_false, hp, orFault_next, memRead_ok,
        Host.Outcome.next.injEq] at h
      obtain ⟨bs, ⟨-, hb⟩, rfl⟩ := h
      exact .inr ⟨rfl, by omega, bs, hb, rfl⟩

end Sys2Proof.Machine
end

