-- ==== Sys2Proof/Laws/Operands.lean ====
section
/-! SUPPORT. Images and words: what RESULT is for an image of 1, 2 and 4 bytes (spec/44_receive.md R133 to R135), and the
lengths of images. -/

namespace Sys2Proof.Machine

@[simp] theorem argImage_length (w : Width) (v : Word) : (argImage w v).length = widthBytes w := by
  cases w <;> rfl

@[simp] theorem reverseField_length (rev : Bool) (w : Width) (img : List Byte) :
    (reverseField rev w img).length = img.length := by
  cases w <;> cases rev <;> simp [reverseField]

/-- RESULT of a 1-byte image (R133). -/
theorem ofLanes_one (b : Byte) : ofLanes [b] = b.setWidth 32 := by simp [ofLanes]

/-- RESULT of a 2-byte image (R134). -/
theorem ofLanes_two (b0 b1 : Byte) : ofLanes [b0, b1] = (b1 ++ b0).setWidth 32 := by
  apply BitVec.eq_of_getLsbD_eq
  intro i hi
  simp only [ofLanes, BitVec.getLsbD_or, BitVec.getLsbD_shiftLeft, BitVec.getLsbD_setWidth, BitVec.getLsbD_append]
  interval_cases i <;> simp

/-- RESULT of a 4-byte image (R135). -/
theorem ofLanes_four (b0 b1 b2 b3 : Byte) : ofLanes [b0, b1, b2, b3] = b3 ++ b2 ++ b1 ++ b0 := by
  apply BitVec.eq_of_getLsbD_eq
  intro i hi
  simp only [ofLanes, BitVec.getLsbD_or, BitVec.getLsbD_shiftLeft, BitVec.getLsbD_setWidth, BitVec.getLsbD_append]
  interval_cases i <;> simp

end Sys2Proof.Machine
end

