-- ==== Sys2Proof/Laws/PerInstr.lean ====
section
/-! SUPPORT. Per instruction, as syntax: its encoding decodes to it (spec/30_encoding.md R67, R68, R70), whatever its operand
is. -/

namespace Sys2Proof.Laws.RoundTrip

/-- The command of an instruction decodes to that instruction. -/
def Statement (i : Instr) : Prop := decode (encode i) = .ok i

theorem addf1 (arg : Word) : Statement (.addf1 arg) := by
  simp [Statement, encode, decode, rsvField, funcField, widthField, decodeAddField, widthOfCode, addFieldInstr]

theorem addf2 (arg : Word) : Statement (.addf2 arg) := by
  simp [Statement, encode, decode, rsvField, funcField, widthField, decodeAddField, widthOfCode, addFieldInstr]

theorem addf4 (arg : Word) : Statement (.addf4 arg) := by
  simp [Statement, encode, decode, rsvField, funcField, widthField, decodeAddField, widthOfCode, addFieldInstr]

theorem send : Statement .send := by unfold Statement; decide

theorem recv : Statement .recv := by unfold Statement; decide

theorem extf1 : Statement .extf1 := by unfold Statement; decide

theorem extf2 : Statement .extf2 := by unfold Statement; decide

theorem extf4 : Statement .extf4 := by unfold Statement; decide

theorem rdreg (arg : Word) : Statement (.rdreg arg) := by
  simp [Statement, encode, decode, rsvField, funcField, widthField, decodeNoWidth]

end Sys2Proof.Laws.RoundTrip
end

