-- ==== Sys2Proof/Laws/Receive.lean ====
section
/-! SUPPORT. What the receive path's shared operations can answer. -/

namespace Sys2Proof.Machine

/-- The state in which frame completion begins: the terminator is in RXB[RX_IDX], RX_LEN = L, RX_IDX = 0 (R124, R125). -/
def terminated (s : State) (rest : List Byte) : State :=
  ((s.takeByte rest (s.rxb.write s.rxIdx.toNat terminator)).setRxLen (s.rxIdx.toNat + 1)).setRxIdx 0

section
variable (s : State) (rest : List Byte)

@[simp] theorem terminated_cfg : (terminated s rest).cfg = s.cfg := rfl
@[simp] theorem terminated_rxOvf : (terminated s rest).rxOvf = s.rxOvf := rfl
@[simp] theorem terminated_rxb : (terminated s rest).rxb = s.rxb.write s.rxIdx.toNat terminator := rfl
@[simp] theorem terminated_cmd : (terminated s rest).cmd = s.cmd := rfl
@[simp] theorem terminated_arg : (terminated s rest).arg = s.arg := rfl
@[simp] theorem terminated_busy : (terminated s rest).busy = s.busy := rfl
@[simp] theorem terminated_status : (terminated s rest).status = s.status := rfl
@[simp] theorem terminated_result : (terminated s rest).result = s.result := rfl
@[simp] theorem terminated_txb : (terminated s rest).txb = s.txb := rfl
@[simp] theorem terminated_txLen : (terminated s rest).txLen = s.txLen := rfl
@[simp] theorem terminated_rxIdx : (terminated s rest).rxIdx = 0 := rfl
@[simp] theorem terminated_rxLen : (terminated s rest).rxLen = BitVec.ofNat 8 (s.rxIdx.toNat + 1) := rfl
@[simp] theorem terminated_extractPos : (terminated s rest).extractPos = s.extractPos := rfl
@[simp] theorem terminated_pktValid : (terminated s rest).pktValid = false := rfl
@[simp] theorem terminated_tin : (terminated s rest).tin = rest := rfl
@[simp] theorem terminated_tout : (terminated s rest).tout = s.tout := rfl
@[simp] theorem terminated_script : (terminated s rest).script = s.script := rfl
@[simp] theorem terminated_onward : (terminated s rest).onward = s.onward := rfl

end

/-- FinishFrame discards an overflowed frame (R125). -/
theorem finishFrame_overflow {l : Nat} {s : State} (h : s.rxOvf = true) :
    finishFrame l s = .ok (s.setRxOvf false, .overflow) := by
  simp [finishFrame, h]

/-- FinishFrame rejects a runt frame (R126). -/
theorem finishFrame_runt {l : Nat} {s : State} (h : s.rxOvf = false) (hl : l < 3) :
    finishFrame l s = .ok (s, .checksumInvalid) := by
  simp [finishFrame, h, hl]

/-- FinishFrame decodes any other frame in place and delivers it when its checksum holds (R127 to R129). -/
theorem finishFrame_decoded {l : Nat} {s : State} {enc : List Byte} (h : s.rxOvf = false) (hl : 3 ≤ l)
    (hc : l ≤ s.cfg.rxcap) (he : s.rxb.readBytes 0 l = some enc) :
    finishFrame l s =
      if validate (decodeFrame enc) then
        .ok (((s.setRxb (s.rxb.writeBytes 0 (decodeFrame enc))).setRxLen (l - 2)).deliver (l - 3), .delivered)
      else .ok ((s.setRxb (s.rxb.writeBytes 0 (decodeFrame enc))).setRxLen (l - 2), .checksumInvalid) := by
  have hlen := Memory.length_of_readBytes he
  have h1 : memRead s.rxb s.cfg.rxcap 0 l = .ok enc := memRead_ok.2 ⟨by omega, he⟩
  have h2 : memWrite s.rxb s.cfg.rxcap 0 (decodeFrame enc) = .ok (s.rxb.writeBytes 0 (decodeFrame enc)) :=
    memWrite_ok.2 ⟨by simp only [decodeFrame_length]; omega, rfl⟩
  simp [finishFrame, h, not_lt.mpr hl, h1, h2]

/-- Everything FinishFrame can answer. -/
theorem finishFrame_cases {l : Nat} {s u : State} {st : Status} (h : finishFrame l s = .ok (u, st)) :
    (s.rxOvf = true ∧ u = s.setRxOvf false ∧ st = .overflow) ∨
    (s.rxOvf = false ∧ l < 3 ∧ u = s ∧ st = .checksumInvalid) ∨
    (s.rxOvf = false ∧ 3 ≤ l ∧ l ≤ s.cfg.rxcap ∧ ∃ enc, s.rxb.readBytes 0 l = some enc ∧
      ((validate (decodeFrame enc) = true ∧ st = .delivered ∧
          u = ((s.setRxb (s.rxb.writeBytes 0 (decodeFrame enc))).setRxLen (l - 2)).deliver (l - 3)) ∨
        (validate (decodeFrame enc) = false ∧ st = .checksumInvalid ∧
          u = (s.setRxb (s.rxb.writeBytes 0 (decodeFrame enc))).setRxLen (l - 2)))) := by
  cases ho : s.rxOvf with
  | true => rw [finishFrame_overflow ho] at h; exact .inl ⟨rfl, by simpa [eq_comm] using h⟩
  | false =>
    refine .inr ?_
    by_cases hl : l < 3
    · rw [finishFrame_runt ho hl] at h; exact .inl ⟨rfl, hl, by simpa [eq_comm] using h⟩
    · refine .inr ⟨rfl, by omega, ?_⟩
      cases hr : memRead s.rxb s.cfg.rxcap 0 l with
      | error f => simp [finishFrame, ho, hl, hr] at h
      | ok enc =>
        obtain ⟨hc, he⟩ := memRead_ok.1 hr
        refine ⟨by omega, enc, he, ?_⟩
        rw [finishFrame_decoded ho (by omega) (by omega) he] at h
        cases hv : validate (decodeFrame enc) <;> simp only [hv, if_true, Bool.false_eq_true, if_false] at h <;>
          simp only [Except.ok.injEq, Prod.mk.injEq] at h <;> simp [h.1, h.2]

/-- The micro-step on a byte that is no terminator (R124). -/
theorem rxStep_byte {b : Byte} {rest : List Byte} {s : State} (hb : b ≠ terminator)
    (hi : s.rxIdx.toNat < s.cfg.rxcap) :
    rxStep b rest s =
      if s.rxIdx.toNat < s.cfg.rxcap - 1 then
        .ok ((s.takeByte rest (s.rxb.write s.rxIdx.toNat b)).setRxIdx (s.rxIdx.toNat + 1), none)
      else .ok ((s.takeByte rest (s.rxb.write s.rxIdx.toNat b)).setRxOvf true, none) := by
  have hw : memWrite s.rxb s.cfg.rxcap s.rxIdx.toNat [b] = .ok (s.rxb.write s.rxIdx.toNat b) :=
    memWrite_ok.2 ⟨by simpa using hi, rfl⟩
  simp [rxStep, hw, hb]

/-- The micro-step on the terminator (R124). -/
theorem rxStep_terminator {rest : List Byte} {s : State} (hi : s.rxIdx.toNat < s.cfg.rxcap) :
    rxStep terminator rest s =
      match finishFrame (s.rxIdx.toNat + 1) (terminated s rest) with
      | .error f => .error f
      | .ok (u, st) => .ok (u, some st) := by
  have hw : memWrite s.rxb s.cfg.rxcap s.rxIdx.toNat [terminator] = .ok (s.rxb.write s.rxIdx.toNat terminator) :=
    memWrite_ok.2 ⟨by simpa using hi, rfl⟩
  simp only [rxStep, hw, if_true]; rfl

/-- Everything the micro-step can answer. -/
theorem rxStep_cases {b : Byte} {rest : List Byte} {s t : State} {o : Option Status}
    (h : rxStep b rest s = .ok (t, o)) :
    s.rxIdx.toNat < s.cfg.rxcap ∧
    ((b ≠ terminator ∧ s.rxIdx.toNat < s.cfg.rxcap - 1 ∧ o = none ∧
        t = (s.takeByte rest (s.rxb.write s.rxIdx.toNat b)).setRxIdx (s.rxIdx.toNat + 1)) ∨
      (b ≠ terminator ∧ s.rxIdx.toNat = s.cfg.rxcap - 1 ∧ o = none ∧
        t = (s.takeByte rest (s.rxb.write s.rxIdx.toNat b)).setRxOvf true) ∨
      (b = terminator ∧ ∃ st, o = some st ∧
        finishFrame (s.rxIdx.toNat + 1) (terminated s rest) = .ok (t, st))) := by
  have hi : s.rxIdx.toNat < s.cfg.rxcap := by
    by_contra hn
    simp [rxStep, memWrite, show ¬ s.rxIdx.toNat + 1 ≤ s.cfg.rxcap by omega] at h
  refine ⟨hi, ?_⟩
  by_cases hb : b = terminator
  · subst hb
    refine .inr (.inr ⟨rfl, ?_⟩)
    rw [rxStep_terminator hi] at h
    cases hf : finishFrame (s.rxIdx.toNat + 1) (terminated s rest) with
    | error f => simp [hf] at h
    | ok p => obtain ⟨u, st⟩ := p; simp only [hf, Except.ok.injEq, Prod.mk.injEq] at h; exact ⟨st, h.2.symm, by rw [h.1]⟩
  · rw [rxStep_byte hb hi] at h
    split at h
    · next hlt => simp only [Except.ok.injEq, Prod.mk.injEq] at h; exact .inl ⟨hb, hlt, h.2.symm, h.1.symm⟩
    · next hge =>
      simp only [Except.ok.injEq, Prod.mk.injEq] at h
      exact .inr (.inl ⟨hb, by omega, h.2.symm, h.1.symm⟩)

/-- RECEIVE's iteration with TIN empty (R130). -/
theorem execRecv_empty {s : State} (h : s.tin = []) : execRecv s = .next (s.respond .incomplete 0) := by
  simp [execRecv, h]

/-- Everything RECEIVE's iteration can answer with a next state. -/
theorem execRecv_cases {s t : State} (h : execRecv s = .next t) :
    (s.tin = [] ∧ t = s.respond .incomplete 0) ∨
    (∃ b rest, s.tin = b :: rest ∧ rxStep b rest s = .ok (t, none)) ∨
    (∃ b rest u st, s.tin = b :: rest ∧ rxStep b rest s = .ok (u, some st) ∧ t = completeRecv u st) := by
  unfold execRecv at h
  split at h
  · next hn => exact .inl ⟨hn, by simpa using h.symm⟩
  · next b rest hn =>
    cases hr : rxStep b rest s with
    | error f => simp [hr] at h
    | ok p =>
      obtain ⟨u, o⟩ := p
      cases o with
      | none => simp only [hr, Host.Outcome.next.injEq] at h; exact .inr (.inl ⟨b, rest, hn, by rw [h] at hr; exact hr⟩)
      | some st => simp only [hr, Host.Outcome.next.injEq] at h; exact .inr (.inr ⟨b, rest, u, st, hn, hr, h.symm⟩)

/-- However a frame completes, RECEIVE answers its status, and the result is the payload length of a delivered frame. -/
theorem completeRecv_eq (t : State) (st : Status) :
    completeRecv t st = t.respond st (if st = .delivered then t.rxLen.setWidth 32 else 0) := by
  cases st <;> rfl

end Sys2Proof.Machine
end

