-- ==== Sys2Proof/Laws/Send.lean ====
section
/-! SUPPORT. What the send path's shared operations can answer. -/

namespace Sys2Proof.Machine

/-- ADD_FIELD without room raises (R113). -/
theorem addField_full {w : Width} {arg : Word} {s : State}
    (h : s.txLen.toNat + widthBytes w + 1 > s.cfg.capacity) :
    addField w arg s = .next (s.raise .capacityExceeded) := by
  simp [addField, h]

/-- ADD_FIELD with room writes the reversed image and advances TX_LEN (R113). -/
theorem addField_room {w : Width} {arg : Word} {s : State}
    (h : s.txLen.toNat + widthBytes w + 1 ≤ s.cfg.capacity) :
    addField w arg s =
      .next ((s.setTx (s.txb.writeBytes s.txLen.toNat (reverseField s.cfg.rev w (argImage w arg)))
        (s.txLen.toNat + widthBytes w)).respond .ok 0) := by
  have hw : memWrite s.txb s.cfg.capacity s.txLen.toNat (reverseField s.cfg.rev w (argImage w arg)) =
      .ok (s.txb.writeBytes s.txLen.toNat (reverseField s.cfg.rev w (argImage w arg))) :=
    memWrite_ok.2 ⟨by simp; omega, rfl⟩
  simp [addField, not_lt.mpr h, hw]

/-- SEND without room for the checksum raises (R117). -/
theorem execSend_full {s : State} (h : s.txLen.toNat + 1 > s.cfg.capacity) :
    execSend s = .next (s.raise .capacityExceeded) := by
  simp [execSend, h]

/-- SEND with room transmits the fields and their checksum (R117). -/
theorem execSend_room {s : State} {fields : List Byte} (h : s.txLen.toNat + 1 ≤ s.cfg.capacity)
    (hf : s.txb.readBytes 0 s.txLen.toNat = some fields) :
    execSend s =
      .next (((s.setTx (s.txb.write s.txLen.toNat (checksum fields)) 0).emit
        (encodeFrame (fields ++ [checksum fields]))).respond .ok (BitVec.ofNat 32 (s.txLen.toNat + 3))) := by
  have h1 : memRead s.txb s.cfg.capacity 0 s.txLen.toNat = .ok fields := memRead_ok.2 ⟨by omega, hf⟩
  have h2 : memWrite s.txb s.cfg.capacity s.txLen.toNat [checksum fields] =
      .ok (s.txb.write s.txLen.toNat (checksum fields)) := memWrite_ok.2 ⟨by simpa using h, rfl⟩
  have h3 : memRead (s.txb.write s.txLen.toNat (checksum fields)) s.cfg.capacity 0 (s.txLen.toNat + 1) =
      .ok (fields ++ [checksum fields]) := by
    refine memRead_ok.2 ⟨by omega, Memory.readBytes_succ ?_ ?_⟩
    · rw [← hf]
      exact Memory.readBytes_congr fun i _ hi => Memory.read_write_ne _ _ (by omega)
    · simp
  simp [execSend, not_lt.mpr h, h1, h2, h3]

/-- Everything SEND can answer with a next state. -/
theorem execSend_cases {s t : State} (h : execSend s = .next t) :
    (s.txLen.toNat + 1 > s.cfg.capacity ∧ t = s.raise .capacityExceeded) ∨
    (s.txLen.toNat + 1 ≤ s.cfg.capacity ∧ ∃ fields, s.txb.readBytes 0 s.txLen.toNat = some fields ∧
      t = ((s.setTx (s.txb.write s.txLen.toNat (checksum fields)) 0).emit
        (encodeFrame (fields ++ [checksum fields]))).respond .ok (BitVec.ofNat 32 (s.txLen.toNat + 3))) := by
  by_cases hc : s.txLen.toNat + 1 > s.cfg.capacity
  · rw [execSend_full hc] at h
    exact .inl ⟨hc, by simpa using h.symm⟩
  · refine .inr ⟨by omega, ?_⟩
    cases hf : s.txb.readBytes 0 s.txLen.toNat with
    | none => simp [execSend, hc, memRead, hf] at h; split at h <;> simp at h
    | some fields =>
      rw [execSend_room (by omega) hf] at h
      exact ⟨fields, rfl, by simpa using h.symm⟩

end Sys2Proof.Machine
end

