-- ==== Sys2Proof/Laws/Step.lean ====
section
/-! SUPPORT. What a step can do: it is one turn of the environment or one step of the block. -/

namespace Sys2Proof.Machine

/-- Everything a step of the block can answer with a next state. -/
theorem blockStep_cases {s t : State} (h : blockStep s = .next t) :
    (s.busy = false ∧ t = s) ∨
    (s.busy = true ∧ ∃ i, decode (presented s) = .ok i ∧ exec i s = .next t) ∨
    (s.busy = true ∧ (∃ e, decode (presented s) = .error e) ∧ t = s.raise .illegalCommand) := by
  unfold blockStep at h
  cases hb : s.busy with
  | false => simp [hb] at h; exact .inl ⟨rfl, h.symm⟩
  | true =>
    simp only [hb, if_true] at h
    refine .inr ?_
    cases hd : decode (presented s) with
    | ok i => simp only [hd] at h; exact .inl ⟨rfl, i, rfl, h⟩
    | error e => simp only [hd, execIllegal, Host.Outcome.next.injEq] at h; exact .inr ⟨rfl, ⟨e, rfl⟩, h.symm⟩

/-- The listed turns come first. -/
theorem State.pending_script {s : State} {t : Turn} {rest : List Turn} (h : s.script = t :: rest) :
    s.pending = some (t, s.setScript rest) := by
  simp [State.pending, h]

/-- The environment has no turn exactly when none is listed and none follows. -/
theorem State.pending_eq_none {s : State} :
    s.pending = none ↔ s.script = [] ∧ (s.onward = .quiet ∨ s.onward = .cycle []) := by
  unfold State.pending
  split
  · simp [*]
  · split <;> simp [*]

/-- A turn that is taken changes nothing but which turns are still to come. -/
theorem State.pending_some {s u : State} {t : Turn} (h : s.pending = some (t, u)) :
    ∃ ts o, u = (s.setScript ts).setOnward o := by
  unfold State.pending at h
  split at h
  · next rest _ => simp only [Option.some.injEq, Prod.mk.injEq] at h; exact ⟨rest, s.onward, h.2.symm⟩
  · next hs =>
    split at h
    · simp at h
    · simp at h
    · next rest _ => simp only [Option.some.injEq, Prod.mk.injEq] at h; exact ⟨rest, s.onward, h.2.symm⟩
    · next n k _ =>
      simp only [Option.some.injEq, Prod.mk.injEq] at h
      exact ⟨s.script, .free n (k + 1), h.2.symm⟩

/-- Everything a step can answer with a next state: the block's own step, at the state itself or with a `block` turn taken,
or another turn of the environment. -/
theorem step_cases {s t : State} (h : step s = .next t) :
    blockStep s = .next t ∨
    ∃ u, (s.pending = some (.block, u) ∧ blockStep u = .next t) ∨
      (∃ c, s.pending = some (.issue c, u) ∧ s.busy = false ∧ t = u.present c) ∨
      (s.pending = some (.reset, u) ∧ s.busy = false ∧ t = u.afterReset) ∨
      (∃ b, s.pending = some (.arrive b, u) ∧ t = u.setTin (u.tin ++ [b])) ∨
      (s.pending = some (.consume, u) ∧ t = u.setTout u.tout.tail) := by
  unfold step turn at h
  split at h
  · exact .inl h
  · next c u hp =>
    split at h
    · exact .inl h
    · next hb =>
      simp only [Host.Outcome.next.injEq] at h
      exact .inr ⟨u, .inr (.inl ⟨c, hp, by simpa using hb, h.symm⟩)⟩
  · next u hp =>
    split at h
    · exact .inl h
    · next hb =>
      simp only [Host.Outcome.next.injEq] at h
      exact .inr ⟨u, .inr (.inr (.inl ⟨hp, by simpa using hb, h.symm⟩))⟩
  · next b u hp =>
    simp only [Host.Outcome.next.injEq] at h
    exact .inr ⟨u, .inr (.inr (.inr (.inl ⟨b, hp, h.symm⟩)))⟩
  · next u hp =>
    simp only [Host.Outcome.next.injEq] at h
    exact .inr ⟨u, .inr (.inr (.inr (.inr ⟨hp, h.symm⟩)))⟩
  · next u hp => exact .inr ⟨u, .inl ⟨hp, h⟩⟩

end Sys2Proof.Machine
end

