-- ==== Sys2Proof/Laws/System.lean ====
section
/-! SUPPORT. What register readout and the illegal command can answer. -/

namespace Sys2Proof.Machine

/-- The register numbers that are assigned are 0 to 5 (R28). -/
theorem regValue_isSome (s : State) (r : Nat) : (regValue s r).isSome = decide (r ≤ 5) := by
  match r with
  | 0 => rfl
  | 1 => rfl
  | 2 => rfl
  | 3 => rfl
  | 4 => rfl
  | 5 => rfl
  | r + 6 => simp [regValue]

/-- Everything RDREG can answer with a next state: only the response changes (R137). -/
theorem execRdreg_cases {arg : Word} {s t : State} (h : execRdreg arg s = .next t) :
    (∃ v, regValue s (regNumber arg) = some v ∧ t = s.respond .ok v) ∨
    (regValue s (regNumber arg) = none ∧ t = s.raise .illegalCommand) := by
  unfold execRdreg at h
  split at h
  · next v hv => exact .inl ⟨v, hv, by simpa using h.symm⟩
  · next hn => exact .inr ⟨hn, by simpa using h.symm⟩

end Sys2Proof.Machine
end

