-- ==== Sys2Proof/Tests/Slice0.lean ====
section
/-! SUPPORT. Small tests of the model against spec/95_test_vectors.md and the rules' own examples, one step each, and for every
obligation with hypotheses a state and operands that meet them. The expected values are the spec's. -/

namespace Sys2Proof.Tests

open Sys2Proof Sys2Proof.Machine

/-- The next state of an outcome. -/
def nextOf : Result → Option State
  | .next t => some t
  | .fault _ => none
  | .refused _ => none

/-- What a field of the next state is. -/
def after {α : Type} (r : Result) (f : State → α) : Option α := (nextOf r).map f

/-- The spec's usual instance: CAP = 8 and the REV asked for, after reset, with a command in progress. -/
def base (rev : Bool) : State := { State.resetOf ⟨8, rev⟩ with busy := true }

/-- `base` with bytes in the send buffer. -/
def sending (rev : Bool) (bs : List Byte) : State := (base rev).setTx (Memory.writeBytes [] 0 bs) bs.length

/-- `base` with bytes in the receive buffer, RX_IDX behind them, and bytes waiting in TIN. -/
def receiving (buffered tin : List Byte) : State :=
  (((base false).setRxb (Memory.writeBytes [] 0 buffered)).setRxIdx buffered.length).setTin tin

/-- `base` with the packet of program P2 delivered, its extraction cursor at `p`. -/
def delivered (rev : Bool) (p : Nat) : State :=
  (((base rev).setRxb (Memory.writeBytes [] 0 [0x05, 0xFD, 0xE8, 0x03, 0xED])).deliver 4).setExtractPos p

/-- STATUS and RESULT. -/
def response (t : State) : BitVec 4 × Word := (t.status, t.result)

/-! ### Well-formedness (R70 to R72) -/

theorem test_wf_addf1 : (Instr.addf1 0x1234ABCD).wf = false ∧ (Instr.addf1 0x100).wf = false ∧
    (Instr.addf1 0xFF).wf = true := by decide

theorem test_wf_addf2 : (Instr.addf2 0x10000).wf = false ∧ (Instr.addf2 0xFFFF).wf = true := by decide

theorem test_wf_rdreg : (Instr.rdreg 0x100).wf = false ∧ (Instr.rdreg 0xFF).wf = true := by decide

/-! ### Decoding: CMD written out as FUNC, RSV, W from R62, R64 and R65 -/

theorem test_decode_addf1 : decode ⟨0b0001_00_00#8, 0xFD⟩ = .ok (.addf1 0xFD) := by decide

theorem test_decode_addf2 : decode ⟨0b0001_00_01#8, 0x03E8⟩ = .ok (.addf2 0x03E8) := by decide

theorem test_decode_addf4 : decode ⟨0b0001_00_10#8, 0x44332211⟩ = .ok (.addf4 0x44332211) := by decide

theorem test_decode_send : decode ⟨0b0010_00_00#8, 0xFFFFFFFF⟩ = .ok .send := by decide

theorem test_decode_recv : decode ⟨0b0011_00_00#8, 0xFFFFFFFF⟩ = .ok .recv := by decide

theorem test_decode_extf1 : decode ⟨0b0100_00_00#8, 1⟩ = .ok .extf1 := by decide

theorem test_decode_extf2 : decode ⟨0b0100_00_01#8, 1⟩ = .ok .extf2 := by decide

theorem test_decode_extf4 : decode ⟨0b0100_00_10#8, 1⟩ = .ok .extf4 := by decide

theorem test_decode_rdreg : decode ⟨0b0101_00_00#8, 0xFFFFFF01⟩ = .ok (.rdreg 0xFFFFFF01) := by decide

/-- V10: FUNC = 0x0 and FUNC in 0x6..0xF. -/
theorem test_decode_reserved_func : decode ⟨0x00, 0⟩ = .error .reservedFunc ∧ decode ⟨0x60, 0⟩ = .error .reservedFunc := by
  decide

/-- V10: RSV is not 0. -/
theorem test_decode_reserved_bits : decode ⟨0x14, 0⟩ = .error .reservedBits ∧ decode ⟨0x1C, 0⟩ = .error .reservedBits ∧
    decode ⟨0x0F, 0⟩ = .error .reservedBits ∧ decode ⟨0xFF, 0⟩ = .error .reservedBits := by decide

/-- V10: W = 0b11 on a field command, W not 0 on another. -/
theorem test_decode_reserved_width : decode ⟨0x13, 0⟩ = .error .reservedWidth ∧ decode ⟨0x43, 0⟩ = .error .reservedWidth ∧
    decode ⟨0x21, 0⟩ = .error .reservedWidth ∧ decode ⟨0x31, 0⟩ = .error .reservedWidth ∧
    decode ⟨0x53, 0⟩ = .error .reservedWidth := by decide

/-! ### The pure functions (V1 to V4) -/

/-- V1, with W2 as corrected by spec/90_conflicts.md C1. -/
theorem test_encode : encodeFrame [] = [0x01, 0x00] ∧ encodeFrame [0x00, 0x11] = [0x01, 0x02, 0x11, 0x00] ∧
    encodeFrame [0x00, 0x01, 0x00] = [0x01, 0x02, 0x01, 0x01, 0x00] ∧
    encodeFrame [0x44, 0x33, 0x22, 0x11, 0x00, 0x01, 0xAB] =
      [0x05, 0x44, 0x33, 0x22, 0x11, 0x03, 0x01, 0xAB, 0x00] := by decide

/-- V2, the malformed frames among them. -/
theorem test_decode_frame : decodeFrame [0x06, 0x05, 0xFD, 0xE8, 0x03, 0xED, 0x00] = [0x05, 0xFD, 0xE8, 0x03, 0xED] ∧
    decodeFrame [0x05, 0x11, 0x00] = [0x11] ∧ decodeFrame [0x02, 0x11, 0x22, 0x00] = [0x11, 0x00] ∧
    decodeFrame [0x01, 0x05, 0x00] = [0x00] ∧ decodeFrame [0x07, 0x00] = [] := by decide

/-- V3 and W5. -/
theorem test_checksum : checksum [0xFF, 0x01] = 0x00 ∧ checksum [0x05, 0xFD, 0xE8, 0x03] = 0xED ∧
    validate [0x00] = true ∧ validate [0x11] = false ∧ validate [0x05, 0xFD, 0xE8, 0x03, 0xEC] = false ∧
    validate [0x04, 0xFD, 0xE9, 0x03, 0xED] = true := by decide

/-- V4. -/
theorem test_reverser : reverseField true .w1 [0xFD] = [0xFD] ∧ reverseField true .w2 [0x03, 0xE8] = [0xE8, 0x03] ∧
    reverseField true .w4 [0x11, 0x22, 0x33, 0x44] = [0x44, 0x33, 0x22, 0x11] ∧
    reverseField false .w4 [0x11, 0x22, 0x33, 0x44] = [0x11, 0x22, 0x33, 0x44] := by decide

/-! ### The send path (V5, V6) -/

theorem test_addf1 : after (exec (.addf1 0x1234ABCD) (base false)) (fun t => (t.txLen, t.txb, response t)) =
    some (1, [(0, 0xCD)], 0, 0) := by decide

theorem test_addf1_full : after (exec (.addf1 0x01) (sending false [1, 2, 3, 4, 5, 6, 7])) (fun t => (t.txLen, response t)) =
    some (7, 5, 0) := by decide

theorem test_addf2_reversed : after (exec (.addf2 0xE803) (base true)) (fun t => (t.txLen, t.txb)) =
    some (2, [(0, 0xE8), (1, 0x03)]) := by decide

/-- The field ends exactly at CAP - 1. -/
theorem test_addf2_last : after (exec (.addf2 0xBEEF) (sending false [1, 2, 3, 4, 5])) (fun t => (t.txLen, t.txb.readBytes 5 2)) =
    some (7, some [0xEF, 0xBE]) := by decide

theorem test_addf4 : after (exec (.addf4 0x11223344) (sending false [1, 2, 3])) (fun t => (t.txLen, t.txb.readBytes 3 4)) =
    some (7, some [0x44, 0x33, 0x22, 0x11]) := by decide

theorem test_addf4_full : after (exec (.addf4 0) (sending false [1, 2, 3, 4])) (fun t => (t.txLen, response t)) =
    some (4, 5, 0) := by decide

theorem test_send : after (exec .send (sending false [0x05, 0xFD, 0xE8, 0x03])) (fun t => (t.tout, t.txLen, response t)) =
    some ([0x06, 0x05, 0xFD, 0xE8, 0x03, 0xED, 0x00], 0, 0, 7) := by decide

theorem test_send_empty : after (exec .send (base false)) (fun t => (t.tout, t.txb, response t)) =
    some ([0x01, 0x01, 0x00], [(0, 0x00)], 0, 3) := by decide

/-! ### The receive path (V7; R124's and R130's examples) -/

/-- The last byte of program P2's frame: delivered, with the checksum byte left behind the payload. -/
theorem test_recv_delivers :
    after (exec .recv (receiving [0x06, 0x05, 0xFD, 0xE8, 0x03, 0xED] [0x00, 0x03]))
      (fun t => (t.rxb.map Prod.snd, t.tin, response t)) =
    some ([0x05, 0xFD, 0xE8, 0x03, 0xED, 0xED, 0x00], [0x03], 4, 4) := by decide

/-- R124's example: RXCAP = 4, RX_IDX = 3, the byte 0x05 overflows. -/
theorem test_recv_overflows :
    after (exec .recv { State.resetOf ⟨2, false⟩ with busy := true, rxIdx := 3, tin := [0x05] })
      (fun t => (t.rxb, t.rxOvf, t.rxIdx, t.busy)) = some ([(3, 0x05)], true, 3, true) := by decide

/-! ### Extraction (R133 to R135's examples) -/

theorem test_extf1 : after (exec .extf1 (delivered false 1)) (fun t => (t.extractPos, response t)) =
    some (2, 0, 0x000000FD) := by decide

/-- The checksum byte is not extractable (P2). -/
theorem test_extf1_end : after (exec .extf1 (delivered false 4)) (fun t => (t.extractPos, response t)) =
    some (4, 7, 0) := by decide

theorem test_extf2 : after (exec .extf2 (delivered false 2)) response = some (0, 0x000003E8) := by decide

theorem test_extf2_reversed : after (exec .extf2 (delivered true 2)) response = some (0, 0x0000E803) := by decide

theorem test_extf4 : after (exec .extf4 (delivered false 0)) (fun t => (t.extractPos, response t)) =
    some (4, 0, 0x03E8FD05) := by decide

theorem test_extf4_no_packet : after (exec .extf4 (base false)) response = some (6, 0) := by decide

/-! ### Register readout (R137, V9) -/

theorem test_rdreg_config : after (exec (.rdreg 0) (base false)) response = some (0, 0x000A0008) := by decide

theorem test_rdreg_unassigned : after (exec (.rdreg 6) (base false)) response = some (8, 0) ∧
    after (exec (.rdreg 0xFFFFFF01) (base false)) response = some (0, 0) ∧
    after (exec (.rdreg 5) (delivered false 0)) response = some (0, 2) := by decide

/-! ### A step, a placed word, and the assembler -/

/-- P5: CMD = 0x13 raises ILLEGAL_COMMAND. -/
theorem test_step_illegal : after (step ((base false).present ⟨0x13, 0⟩)) (fun t => (t.busy, response t)) =
    some (false, 8, 0) := by decide

/-- R166: a byte of an environment that appends for ever, in the middle of a RECEIVE. -/
theorem test_endless_environment :
    after (step { receiving [6] [5] with cmd := 0x30, onward := .cycle (feedTurns [7, 8]) })
      (fun t => (t.busy, t.tin, t.script)) =
    some (true, [5, 7], [.block, .arrive 8, .block]) := by decide

theorem test_placed_word : after (step (State.reset.withFetchWord 8 0x50)) response = some (0, 0x000A0008) := by decide

theorem test_assemble : assemble "addf1 -3 ; b".toList = .command (.addf1 0xFD) ∧
    assemble "ADDF2 0x03E8".toList = .command (.addf2 0x03E8) ∧ assemble "RDREG FLAGS".toList = .command (.rdreg 5) ∧
    assemble "SEND".toList = .command .send ∧ assemble "; nothing".toList = .blank ∧
    assemble "ADDF1 256".toList = .refused ∧ assemble "RDREG 256".toList = .refused ∧
    assemble "EXTF1 1".toList = .refused := by decide

theorem test_encoding_text : encodingText (encode (.addf2 0x03E8)) = "CMD=0x11 ARG=0x000003E8".toList := by decide

/-! ### Witnesses: for every obligation with hypotheses, values that meet them -/

/-- The usual instance right after reset meets the invariant. -/
theorem test_inv_reset : StateInv (State.resetOf ⟨8, false⟩) := by constructor <;> decide

/-- The instance with CAP = 0 right after reset meets it. -/
theorem test_inv_reset_zero : StateInv (State.resetOf ⟨0, false⟩) := by constructor <;> decide

/-- A state with a packet of one byte delivered meets it (R27: Dispatched). -/
theorem test_inv_dispatched :
    StateInv { State.resetOf ⟨2, false⟩ with rxb := [(0, 7), (1, 7)], rxLen := 1, pktValid := true } := by
  constructor <;> decide

/-- A state in overflow meets it (R27: Overflow). -/
theorem test_inv_overflow :
    StateInv { State.resetOf ⟨2, false⟩ with rxb := [(0, 1), (1, 2), (2, 3), (3, 4)], rxIdx := 3, rxOvf := true } := by
  constructor <;> decide

/-- A state with bytes in both buffers, a RECV in progress and bytes in TIN meets it, and only the block moves. -/
theorem test_inv_receiving :
    StateInv { receiving [6] [5, 0] with cmd := 0x30, txb := [(0, 1)], txLen := 1 } ∧
      RecvRunsAlone { receiving [6] [5, 0] with cmd := 0x30, txb := [(0, 1)], txLen := 1 } := by
  refine ⟨by constructor <;> decide, by decide, by decide, by decide⟩

theorem test_witness_DecodeUndoesEncode : decode ⟨0x10, 0xFD⟩ = .ok (.addf1 0xFD) ∧ decode ⟨0x20, 7⟩ = .ok .send ∧
    (0x20 : Byte) = (encode .send).cmd ∧ Instr.send.readsArg = false := by decide

theorem test_witness_OnlyNineCommandsAreLegal :
    (let s := (base false).present ⟨0xFF, 0⟩
     s.cmd ∉ ([0x10, 0x11, 0x12, 0x20, 0x30, 0x40, 0x41, 0x42, 0x50] : List Byte) ∧ s.busy = true) ∧
    ∃ t, (base false).busy = true ∧ exec (.rdreg 6) (base false) = .next t ∧ t.busy = false ∧ t.status = 8#4 :=
  ⟨by decide, _, rfl, rfl, rfl, rfl⟩

/-- The four forms of the block's turn, for a command that decodes and for one that does not. -/
theorem test_witness_StepRunsTheDecodedCommand :
    (base false).busy = true ∧ decode ⟨0x20, 0⟩ = .ok .send ∧ decode ⟨0x13, 0⟩ = .error .reservedWidth ∧
    ∀ c ∈ ([⟨0x20, 0⟩, ⟨0x13, 0⟩] : List Command),
      (let s := (base false).present c
       s.busy = true ∧ BlockMoves s s) ∧
      (let s := ((base false).present c).setScript [.issue ⟨0x30, 0⟩]
       BlockMoves s s) ∧
      (let s := ((base false).present c).setScript [.reset]
       BlockMoves s s) ∧
      (let s := ((base false).present c).setScript [.block]
       BlockMoves s (s.setScript [])) :=
  ⟨rfl, by decide, by decide, fun _ _ => ⟨⟨rfl, .inl ⟨rfl, rfl⟩⟩, .inr (.inl ⟨_, _, rfl, rfl⟩),
    .inr (.inr (.inl ⟨_, rfl, rfl⟩)), .inr (.inr (.inr rfl))⟩⟩

theorem test_witness_PlacedCommandRunsNext : decodeTableWord 8 0x30 = some .recv ∧
    decodeTableWord 40 0xFFFFFFFF12 = some (.addf4 0xFFFFFFFF) := by decide

theorem test_witness_EnvironmentMovesTheQueues :
    (∃ u, (State.reset.setScript [.arrive 7]).pending = some (.arrive 7, u)) ∧
    (∃ u, (State.reset.setScript [.consume]).pending = some (.consume, u)) ∧
    (State.reset.busy = false ∧ State.reset.pending = none) ∧
    (State.reset.setScript [.arrive 7]).script = .arrive 7 :: [] ∧
    ((State.reset.setOnward (.cycle [.arrive 7, .block])).script = [] ∧
      (State.reset.setOnward (.cycle [.arrive 7, .block])).onward = .cycle (.arrive 7 :: [.block])) ∧
    (State.reset.setOnward (.free 0 3)).script = [] ∧ (State.reset.setOnward (.free 0 3)).onward = .free 0 3 :=
  ⟨⟨_, rfl⟩, ⟨_, rfl⟩, ⟨rfl, rfl⟩, rfl, ⟨rfl, rfl⟩, rfl, rfl⟩

theorem test_witness_OneCommandAtATime :
    (∃ t, step ((base false).present ⟨0x20, 0⟩) = .next t ∧ ((base false).present ⟨0x20, 0⟩).busy = true) ∧
    ∃ t u, step (State.reset.setScript [.issue ⟨0x20, 0⟩]) = .next t ∧
      (State.reset.setScript [.issue ⟨0x20, 0⟩]).busy = false ∧
      (State.reset.setScript [.issue ⟨0x20, 0⟩]).pending = some (.issue ⟨0x20, 0⟩, u) :=
  ⟨⟨_, rfl, rfl⟩, _, _, rfl, rfl, rfl⟩

theorem test_witness_ResetTurnClearsRegisters :
    ∃ u, (State.reset.setScript [.reset, .consume]).busy = false ∧
      (State.reset.setScript [.reset, .consume]).pending = some (.reset, u) := ⟨_, rfl, rfl⟩

theorem test_witness_ConstructionChecksCapacity : Config.construct 0 true = some ⟨0, true⟩ ∧
    Config.construct 252 false = some ⟨252, false⟩ ∧ Config.construct 253 false = none := by decide

theorem test_witness_ConfigurationNeverChanges : ∃ t, step (State.reset.setScript [.reset]) = .next t := ⟨_, rfl⟩

theorem test_witness_EncodeProperties : (List.replicate 252 (0 : Byte)).length ≤ 252 ∧ IsMarker [0x11, 0x00] 0 ∧
    IsMarker [0x11, 0x00] 2 ∧ ¬ IsMarker [0x11, 0x00] 1 := by
  refine ⟨List.length_replicate.le, .inl rfl, .inr ⟨1, rfl, rfl⟩, ?_⟩
  rintro (h | ⟨i, h, hr⟩)
  · omega
  · obtain rfl : i = 0 := by omega
    simp at hr

theorem test_witness_EncodeCornerCases : (List.replicate 252 (1 : Byte)).length = 252 ∧
    (∀ b ∈ List.replicate 252 (1 : Byte), b ≠ 0#8) ∧ IsMarker [0x00] 1 ∧ (encodeFrame [0x00])[1]? = some 1 := by
  refine ⟨List.length_replicate, fun b hb => ?_, .inr ⟨0, rfl, rfl⟩, by decide⟩
  obtain rfl := (List.mem_replicate.1 hb).2
  decide

theorem test_witness_DecodeReadsLeftToRight :
    let enc : List Byte := [0x02, 0x11, 0x00]
    let enc' : List Byte := [0x02, 0x11, 0x22, 0x00]
    2 ≤ enc.length ∧ 1 + 2 ≤ enc.length ∧ 1 + 2 ≤ enc'.length ∧ enc.take (1 + 1) = enc'.take (1 + 1) := by decide

theorem test_witness_InPlaceDecodeRefinesScratch :
    Memory.readBytes [(0, 0x02), (1, 0x11), (2, 0x00)] 0 3 = some (0x02 :: [0x11, 0x00]) ∧
      Memory.readBytes [(0, 0x01), (1, 0x00)] 0 2 = some (0x01 :: [0x00]) := by decide

theorem test_witness_DecodeOfEncodeReturnsRaw : ([] : List Byte).length ≤ 252 ∧
    (List.replicate 252 (1 : Byte)).length ≤ 252 :=
  ⟨Nat.zero_le _, List.length_replicate.le⟩

theorem test_witness_WellFormedFramesAreEncodings : WellFormedFrame [0x01, 0x01, 0x00] ∧ WellFormedFrame [0x01, 0x00] := by
  refine ⟨⟨by decide, by decide, by decide, fun j hj => ?_, ?_⟩, by decide, by decide, by decide, fun j hj => ?_, ?_⟩
  · have : j = 0 ∨ j = 1 := by simp at hj; omega
    obtain rfl | rfl := this <;> decide
  · exact .hop 0 1 (by decide) rfl (.hop 1 1 (by decide) rfl (.last 2 rfl))
  · obtain rfl : j = 0 := by simpa using hj
    decide
  · exact .hop 0 1 (by decide) rfl (.last 1 rfl)

theorem test_witness_ChecksumIsTheSum : ([1, 2, 3] : List Byte).Perm [3, 1, 2] := by decide

/-- W5: a data bit, the checksum's top bit, bit 0 of two bytes, bit 7 of two bytes, and two bytes swapped. -/
theorem test_witness_ChecksumDetectsSingleBitErrors :
    let s : List Byte := [0x05, 0xFD, 0xE8, 0x03]
    validate (flipBit (s ++ [checksum s]) 0 0) = false ∧ validate (flipBit (s ++ [checksum s]) 4 7) = false ∧
      (s[0]!.getLsbD 0 = true ∧ s[2]!.getLsbD 0 = false ∧
        validate (flipBit (flipBit (s ++ [checksum s]) 0 0) 2 0) = true) ∧
      validate (flipBit (flipBit (s ++ [checksum s]) 0 7) 3 7) = true ∧ s.Perm [0xFD, 0x05, 0xE8, 0x03] := by decide

/-- A runt of two bytes, and the shortest frame that is decoded. -/
theorem test_witness_ValidateComparesTheLastByte :
    (receiving [1] [0]).tin = 0#8 :: [] ∧ (receiving [1] [0]).rxOvf = false ∧
      (receiving [1] [0]).rxIdx.toNat + 1 < 3 ∧ 3 ≤ ([0x01, 0x01, 0x00] : List Byte).length := by decide

theorem test_witness_ReverserIsItsOwnInverse :
    (true = true ∧ (Width.w2 = .w2 ∨ Width.w2 = .w4)) ∧ ¬(true = true ∧ (Width.w1 = .w2 ∨ Width.w1 = .w4)) := by decide

theorem test_witness_FieldImageLanes : (3 : Nat) < 4 ∧ lane (ofLanes (argImage .w2 0x44332211)) 3 = 0 ∧
    lane (ofLanes (argImage .w2 0x44332211)) 1 = 0x22 := by decide

theorem test_witness_EqualContentsAreEqualBuffers : Memory.wf [(0, 7), (2, 9)] ∧
    Memory.write [(2, 9)] 0 7 = [(0, 7), (2, 9)] := by decide

/-- TX_LEN at the last place with room and at the first without, for each width. -/
theorem test_witness_AddfRoom : (sending false [1, 2, 3, 4, 5, 6]).txLen.toNat + 2 ≤ 8 ∧
    (sending false [1, 2, 3, 4, 5, 6, 7]).txLen.toNat + 2 > 8 ∧ (sending false [1, 2, 3, 4, 5]).txLen.toNat + 3 ≤ 8 ∧
    (sending false [1, 2, 3, 4, 5, 6]).txLen.toNat + 3 > 8 ∧ (sending false [1, 2, 3]).txLen.toNat + 5 ≤ 8 ∧
    (sending false [1, 2, 3, 4]).txLen.toNat + 5 > 8 ∧ (sending false []).cfg.capacity = 8 := by decide

theorem test_witness_UnreadArgumentBitsAreIgnored :
    (0x1234ABCD : Word).extractLsb' 0 8 = (0xCD : Word).extractLsb' 0 8 ∧
      (0x1234ABCD : Word).extractLsb' 0 16 = (0xABCD : Word).extractLsb' 0 16 ∧
      (0x42 : Byte) ∈ ([0x20, 0x30, 0x40, 0x41, 0x42] : List Byte) := by decide

theorem test_witness_SendTransmitsTheFrame :
    (let s := sending false [1, 2, 3, 4, 5, 6, 7]
     s.txLen.toNat + 1 ≤ s.cfg.capacity ∧ s.txb.readBytes 0 s.txLen.toNat = some [1, 2, 3, 4, 5, 6, 7]) ∧
    (State.resetOf ⟨0, false⟩).txLen.toNat + 1 > (State.resetOf ⟨0, false⟩).cfg.capacity ∧
    StateInv (State.resetOf ⟨0, false⟩) := ⟨by decide, by decide, test_inv_reset_zero⟩

theorem test_witness_SendLacksRoomOnlyAtZeroCapacity :
    (StateInv (State.resetOf ⟨8, false⟩) ∧ 1 ≤ (State.resetOf ⟨8, false⟩).cfg.capacity) ∧
    StateInv (State.resetOf ⟨0, false⟩) ∧ (State.resetOf ⟨0, false⟩).cfg.capacity = 0 :=
  ⟨⟨test_inv_reset, by decide⟩, test_inv_reset_zero, by decide⟩

theorem test_witness_AppendedFieldsMakeTheFrame :
    let fs : List TypedField := [(.w1, 5), (.w1, 0xFD), (.w2, 0x03E8)]
    let s := State.reset.setScript (fs.map addTurn ++ [.issue (encode .send)])
    s.busy = false ∧ s.txLen = 0 ∧ s.script = fs.map addTurn ++ [.issue (encode .send)] ∧
      s.onward = .quiet ∧ (payloadOf s.cfg.rev fs).length + 1 ≤ s.cfg.capacity ∧
      payloadOf s.cfg.rev fs = [0x05, 0xFD, 0xE8, 0x03] := by decide

/-- RX_IDX at the last place that advances and at RXCAP - 1. -/
theorem test_witness_RecvBuffersTheByte :
    (let s := (receiving [] [7]).setRxIdx 8
     s.tin = 7 :: [] ∧ (7 : Byte) ≠ 0#8 ∧ s.rxIdx.toNat < s.cfg.rxcap ∧ s.rxIdx.toNat < s.cfg.rxcap - 1) ∧
    (let s := (receiving [] [7]).setRxIdx 9
     s.tin = 7 :: [] ∧ s.rxIdx.toNat < s.cfg.rxcap ∧ s.rxIdx.toNat = s.cfg.rxcap - 1) := by decide

/-- An overflowed frame, a runt of two bytes, and frames of three bytes whose checksum fails and holds. -/
theorem test_witness_TerminatorCompletesTheFrame :
    (let s := { (receiving [] [0]).setRxIdx 9 with rxOvf := true }
     s.tin = 0#8 :: [] ∧ s.rxIdx.toNat < s.cfg.rxcap ∧ s.rxOvf = true) ∧
    (let s := receiving [1] [0]
     s.tin = 0#8 :: [] ∧ s.rxIdx.toNat < s.cfg.rxcap ∧ s.rxOvf = false ∧ s.rxIdx.toNat + 1 < 3) ∧
    (let s := receiving [2, 0x11] [0]
     s.rxOvf = false ∧ 3 ≤ s.rxIdx.toNat + 1 ∧ s.rxb.readBytes 0 2 = some [2, 0x11] ∧
       validate (decodeFrame ([2, 0x11] ++ [0#8])) = false) ∧
    (let s := receiving [1, 1] [0]
     s.rxb.readBytes 0 2 = some [1, 1] ∧ validate (decodeFrame ([1, 1] ++ [0#8])) = true) := by decide

theorem test_witness_RecvOnEmptyInputChangesNothing : (delivered false 2).tin = [] := by decide

/-- A runt, a frame whose checksum holds, a frame whose checksum fails. -/
theorem test_witness_RecvProcessesExactlyOneFrame :
    (let s := (receiving [] [1, 1, 0, 3]).present ⟨0x30, 0⟩
     s.busy = true ∧ s.cmd = 0x30 ∧ s.pending = none ∧ s.rxIdx = 0 ∧ s.rxOvf = false ∧
       s.tin = [1, 1] ++ 0#8 :: [3] ∧ (∀ b ∈ ([1, 1] : List Byte), b ≠ 0#8) ∧ [1, 1].length + 1 ≤ s.cfg.rxcap) ∧
    validate (decodeFrame ([1, 1] ++ [0#8])) = true ∧ validate (decodeFrame ([2, 0x11] ++ [0#8])) = false ∧
    ([1] : List Byte).length + 1 < 3 ∧ 3 ≤ ([1, 1] : List Byte).length + 1 := by decide

/-- P3's first frame, and the shortest frame that overflows an instance with CAP = 2. -/
theorem test_witness_OverflowResynchronises :
    let s := { State.resetOf ⟨2, false⟩ with busy := true, cmd := 0x30, tin := [1, 2, 3, 4, 0, 3] }
    s.busy = true ∧ s.cmd = 0x30 ∧ s.pending = none ∧ s.rxIdx = 0 ∧ s.rxOvf = false ∧
      s.tin = [1, 2, 3, 4] ++ 0#8 :: [3] ∧ (∀ b ∈ ([1, 2, 3, 4] : List Byte), b ≠ 0#8) ∧
      s.cfg.rxcap ≤ [1, 2, 3, 4].length := by decide

theorem test_witness_RecvCompletesInASilentEnvironment :
    ∃ s, StateInv s ∧ RecvRunsAlone s ∧ s.tin.length = 2 := ⟨_, test_inv_receiving.1, test_inv_receiving.2, rfl⟩

theorem test_witness_ArrivalsDoNotDisturbTheMicroStep :
    ∃ t, (receiving [6] [5]).tin ≠ [] ∧ exec .recv (receiving [6] [5]) = .next t := ⟨_, by decide, rfl⟩

/-- No packet; one byte too few; the last field of the payload, for each width. -/
theorem test_witness_Extf :
    (base false).pktValid = false ∧
    (delivered false 0).pktValid = true ∧ (delivered false 4).extractPos.toNat + 1 > (delivered false 4).rxLen.toNat ∧
    (delivered false 3).extractPos.toNat + 2 > (delivered false 3).rxLen.toNat ∧
    (delivered false 1).extractPos.toNat + 4 > (delivered false 1).rxLen.toNat ∧
    ((delivered false 3).extractPos.toNat + 1 ≤ (delivered false 3).rxLen.toNat ∧
      (delivered false 3).rxLen.toNat ≤ (delivered false 3).cfg.rxcap ∧ (delivered false 3).rxb.read 3 = some 0x03) ∧
    ((delivered false 2).extractPos.toNat + 2 ≤ (delivered false 2).rxLen.toNat ∧
      (delivered false 2).rxb.readBytes 2 2 = some [0xE8, 0x03]) ∧
    ((delivered false 0).extractPos.toNat + 4 ≤ (delivered false 0).rxLen.toNat ∧
      (delivered false 0).rxb.readBytes 0 4 = some [0x05, 0xFD, 0xE8, 0x03]) := by decide

/-- P2: the frame of P1 at a frame boundary, then its three fields. -/
theorem test_witness_FieldsSurviveTheWire :
    let fs : List TypedField := [(.w1, 5), (.w1, 0xFD), (.w2, 0x03E8)]
    let p := payloadOf false fs
    let r := { State.reset with tin := [0x06, 0x05, 0xFD, 0xE8, 0x03, 0xED, 0x00, 0x03],
                                script := .issue (encode .recv) :: fs.map extractTurn }
    r.busy = false ∧ r.rxIdx = 0 ∧ r.rxOvf = false ∧ p.length + 3 ≤ r.cfg.rxcap ∧
      r.tin = encodeFrame (p ++ [checksum p]) ++ [0x03] ∧ r.script = .issue (encode .recv) :: fs.map extractTurn ∧
      r.onward = .quiet ∧
      fs = [(.w1, 5)] ++ (.w1, 0xFD) :: [(.w2, 0x03E8)] := by decide

theorem test_witness_RegisterReadout : (5 : Word).toNat % 256 ≤ 5 ∧ (0 : Word).toNat % 256 = 0 ∧
    5 < (6 : Word).toNat % 256 ∧ 5 < (0xFF : Word).toNat % 256 := by decide

theorem test_witness_RaisedStatusChangesNothing :
    ∃ t, (base false).busy = true ∧ exec .extf1 (base false) = .next t ∧ t.busy = false ∧ 5 ≤ t.status.toNat :=
  ⟨_, rfl, rfl, rfl, by decide⟩

theorem test_witness_StatusesByCommand :
    (∃ t, (base false).busy = true ∧ exec .send (base false) = .next t ∧ t.busy = false ∧ sendSide .send = true) ∧
    (∃ t, exec .recv (base false) = .next t ∧ t.busy = false) ∧
    (∃ t, exec .extf4 (base false) = .next t ∧ t.busy = false) ∧
    ∃ t, exec (.rdreg 0) (base false) = .next t ∧ t.busy = false :=
  ⟨⟨_, rfl, rfl, rfl, rfl⟩, ⟨_, rfl, rfl⟩, ⟨_, rfl, rfl⟩, _, rfl, rfl⟩

theorem test_witness_OnlyTheNamedCommandsWrite :
    (∃ t, exec .recv (receiving [] [7]) = .next t ∧ sendSide .recv = false ∧ Instr.recv ≠ .send) ∧
    ∃ t, exec (.addf1 7) (base false) = .next t ∧ Instr.addf1 7 ≠ .recv ∧ receiveSide (.addf1 7) = false :=
  ⟨⟨_, rfl, rfl, by decide⟩, _, rfl, by decide, rfl⟩

theorem test_witness_SendPathIgnoresReceiveState :
    ∃ t, sendSide (.addf4 7) = true ∧ exec (.addf4 7) (base true) = .next t := ⟨_, rfl, rfl⟩

theorem test_witness_ReceivePathIgnoresSendState :
    ∃ t, receiveSide .extf2 = true ∧ exec .extf2 (delivered true 2) = .next t := ⟨_, rfl, rfl⟩

theorem test_witness_QueuesMoveInOrder :
    (∃ t, step ((receiving [] [7]).present ⟨0x30, 0⟩) = .next t) ∧
    (∃ t, step (State.reset.setScript [.arrive 7]) = .next t) ∧
    (∃ t, step ((State.reset.setTout [7, 8]).setScript [.consume]) = .next t) ∧
    ∃ t, step ((base false).present ⟨0x20, 0⟩) = .next t := ⟨⟨_, rfl⟩, ⟨_, rfl⟩, ⟨_, rfl⟩, _, rfl⟩

theorem test_witness_ReceiveStatesOfTheSource :
    (∃ s, StateInv s ∧ rxPhase s = .filling) ∧ (∃ s, StateInv s ∧ rxPhase s = .overflow) ∧
    ∃ s, StateInv s ∧ rxPhase s = .dispatched :=
  ⟨⟨_, test_inv_reset, rfl⟩, ⟨_, test_inv_overflow, rfl⟩, _, test_inv_dispatched, rfl⟩

theorem test_witness_StepKeepsTheInvariant : ∃ s t, StateInv s ∧ step s = .next t ∧ s.tin ≠ t.tin :=
  ⟨_, _, test_inv_receiving.1, rfl, by decide⟩

theorem test_witness_NoStepFaults : ∃ s, StateInv s ∧ s.busy = true := ⟨_, test_inv_receiving.1, rfl⟩

theorem test_witness_FrameInProgressStaysZeroFree :
    ∃ t, FrameZeroFree ((receiving [6] [5]).present ⟨0x30, 0⟩) ∧
      step ((receiving [6] [5]).present ⟨0x30, 0⟩) = .next t := by
  refine ⟨_, fun a ha => ?_, rfl⟩
  obtain rfl : a = 0 := by simpa [receiving, State.present, State.setTin, State.setRxIdx] using ha
  decide

theorem test_witness_ValidPacketStaysValidated :
    ∃ t, PacketValidated (delivered false 1) ∧ (delivered false 1).pktValid = true ∧
      step ((delivered false 1).present ⟨0x40, 0⟩) = .next t := by
  refine ⟨_, fun _ => ⟨[0x05, 0xFD, 0xE8, 0x03, 0xED], ?_, ?_⟩, ?_, rfl⟩ <;> decide

theorem test_witness_InstancesShareNothing :
    ∃ sys', stepAt 1 [State.reset, base false] = .next sys' ∧ [State.reset, base false][1]? = some (base false) :=
  ⟨_, rfl, rfl⟩

/-- The ends of the accepted ranges of ADDF1 and ADDF4, and the values just outside. -/
theorem test_witness_AssemblerOperandRange : operandWord 1 255 = some 0xFF ∧ operandWord 1 256 = none ∧
    operandWord 1 (-128) = some 0x80 ∧ operandWord 1 (-129) = none ∧ operandWord 4 4294967295 = some 0xFFFFFFFF ∧
    operandWord 4 (-1) = some 0xFFFFFFFF := by decide

theorem test_witness_AssembledLinesAreWellFormed : assemble "RDREG 255".toList = .command (.rdreg 255) := by decide

/-- A return on a terminator and on an empty TIN; and a RECEIVE in overflow that is fed for ever. -/
theorem test_witness_RecvRunsForEverWhileFed :
    (∃ t, step ((receiving [1] [0]).present ⟨0x30, 0⟩) = .next t ∧ t.busy = false) ∧
    (∃ t, step ((receiving [1] []).present ⟨0x30, 0⟩) = .next t ∧ t.busy = false) ∧
    let s := { State.resetOf ⟨2, false⟩ with
      busy := true, cmd := 0x30, rxIdx := 3, rxOvf := true, onward := .cycle (feedTurns [7, 8]) }
    s.busy = true ∧ s.cmd = 0x30 ∧ s.rxIdx.toNat < s.cfg.rxcap ∧ (∀ b ∈ s.tin, b ≠ 0#8) ∧
      ([7, 8] : List Byte) ≠ [] ∧ (∀ b ∈ ([7, 8] : List Byte), b ≠ 0#8) ∧ s.script = [] ∧
      s.onward = .cycle (feedTurns [7, 8]) ∧ s.rxOvf = true :=
  ⟨⟨_, rfl, rfl⟩, ⟨_, rfl, rfl⟩, by decide⟩

end Sys2Proof.Tests
end

/-! PROOFS. The statements of spec/00_scope.md: construction, the block's turn, one command at a time, and what a raised status
leaves unchanged. -/

namespace Sys2Proof

/-! ### Construction (spec/00_scope.md R6, R8) -/

/-- Construction answers the configuration asked for when CAP is at most 252 (R6). -/
theorem Config.construct_of_le {cap : Nat} (rev : Bool) (h : cap ≤ 252) :
    Config.construct cap rev = some ⟨⟨cap, Nat.lt_succ_of_le h⟩, rev⟩ :=
  dif_pos (Nat.lt_succ_of_le h)

/-- Construction is refused above 252 (R6, R162). -/
theorem Config.construct_of_gt {cap : Nat} (rev : Bool) (h : 252 < cap) : Config.construct cap rev = none :=
  dif_neg (Nat.not_lt.mpr h)

/-- Settles O11: construction succeeds exactly up to the bound, and RXCAP is CAP + 2 by definition (R8). -/
theorem constructionChecksCapacity : Obligations.ConstructionChecksCapacity := fun _ rev =>
  ⟨fun h => ⟨_, Config.construct_of_le rev h, rfl, rfl, rfl⟩, Config.construct_of_gt rev⟩

end Sys2Proof

namespace Sys2Proof.Machine

/-! ### What a meaning leaves unchanged, and how it raises -/

/-- Everything ADD_FIELD can answer with a next state (R113). -/
theorem addField_cases {w : Width} {arg : Word} {s t : State} (h : addField w arg s = .next t) :
    (s.txLen.toNat + widthBytes w + 1 > s.cfg.capacity ∧ t = s.raise .capacityExceeded) ∨
    (s.txLen.toNat + widthBytes w + 1 ≤ s.cfg.capacity ∧
      t = (s.setTx (s.txb.writeBytes s.txLen.toNat (reverseField s.cfg.rev w (argImage w arg)))
        (s.txLen.toNat + widthBytes w)).respond .ok 0) := by
  by_cases hc : s.txLen.toNat + widthBytes w + 1 > s.cfg.capacity
  · rw [addField_full hc] at h
    exact .inl ⟨hc, by simpa using h.symm⟩
  · rw [addField_room (by omega)] at h
    exact .inr ⟨by omega, by simpa using h.symm⟩

/-- `t` has the configuration, the inputs CMD and ARG and the environment's coming turns of `s`: what no command writes. -/
structure SameContext (s t : State) : Prop where
  cfg : t.cfg = s.cfg
  cmd : t.cmd = s.cmd
  arg : t.arg = s.arg
  script : t.script = s.script
  onward : t.onward = s.onward

/-- A command's answer: raised with nothing else changed, or a status below the raised ones (R140), or, of RECEIVE's
micro-step alone, still to come; and the context stays in each. -/
structure Answers (s t : State) : Prop where
  context : SameContext s t
  answer : (∃ st, t = s.raise st) ∨ t.status.toNat < 5 ∨ t.busy = s.busy

theorem Answers.raise (s : State) (st : Status) : Answers s (s.raise st) :=
  ⟨⟨rfl, rfl, rfl, rfl, rfl⟩, .inl ⟨st, rfl⟩⟩

theorem Answers.respond {s u : State} {st : Status} {v : Word} (hc : SameContext s u) (hst : st.code.toNat < 5) :
    Answers s (u.respond st v) :=
  ⟨⟨hc.cfg, hc.cmd, hc.arg, hc.script, hc.onward⟩, .inr (.inl hst)⟩

theorem addField_answers {w : Width} {arg : Word} {s t : State} (h : addField w arg s = .next t) : Answers s t := by
  obtain ⟨-, rfl⟩ | ⟨-, rfl⟩ := addField_cases h
  · exact .raise s _
  · exact .respond ⟨rfl, rfl, rfl, rfl, rfl⟩ (by decide)

theorem extractField_answers {w : Width} {s t : State} (h : extractField w s = .next t) : Answers s t := by
  obtain ⟨-, rfl⟩ | ⟨-, -, rfl⟩ | ⟨-, -, bs, -, rfl⟩ := extractField_cases h
  · exact .raise s _
  · exact .raise s _
  · exact .respond ⟨rfl, rfl, rfl, rfl, rfl⟩ (by decide)

theorem execSend_answers {s t : State} (h : execSend s = .next t) : Answers s t := by
  obtain ⟨-, rfl⟩ | ⟨-, fields, -, rfl⟩ := execSend_cases h
  · exact .raise s _
  · exact .respond ⟨rfl, rfl, rfl, rfl, rfl⟩ (by decide)

theorem execRdreg_answers {arg : Word} {s t : State} (h : execRdreg arg s = .next t) : Answers s t := by
  obtain ⟨v, -, rfl⟩ | ⟨-, rfl⟩ := execRdreg_cases h
  · exact .respond ⟨rfl, rfl, rfl, rfl, rfl⟩ (by decide)
  · exact .raise s _

/-- Frame completion writes the receive state only, and its outcome is OVERFLOW, CHECKSUM_INVALID or DELIVERED
(R125 to R129). -/
theorem finishFrame_context {l : Nat} {s u : State} {st : Status} (h : finishFrame l s = .ok (u, st)) :
    SameContext s u ∧ st.code.toNat < 5 := by
  obtain ⟨-, rfl, rfl⟩ | ⟨-, -, rfl, rfl⟩ | ⟨-, -, -, enc, -, ⟨-, rfl, rfl⟩ | ⟨-, rfl, rfl⟩⟩ := finishFrame_cases h <;>
    exact ⟨⟨rfl, rfl, rfl, rfl, rfl⟩, by decide⟩

/-- The micro-step keeps the context; without a frame outcome the command stays in progress, and an outcome is no raised
status (R124). -/
theorem rxStep_context {b : Byte} {rest : List Byte} {s t : State} {o : Option Status}
    (h : rxStep b rest s = .ok (t, o)) :
    SameContext s t ∧ (o = none → t.busy = s.busy) ∧ ∀ st, o = some st → st.code.toNat < 5 := by
  obtain ⟨-, ⟨-, -, rfl, rfl⟩ | ⟨-, -, rfl, rfl⟩ | ⟨-, st, rfl, hf⟩⟩ := rxStep_cases h
  · exact ⟨⟨rfl, rfl, rfl, rfl, rfl⟩, fun _ => rfl, nofun⟩
  · exact ⟨⟨rfl, rfl, rfl, rfl, rfl⟩, fun _ => rfl, nofun⟩
  · obtain ⟨⟨hcfg, hcmd, harg, hscript, honward⟩, hst⟩ := finishFrame_context hf
    exact ⟨⟨hcfg, hcmd, harg, hscript, honward⟩, nofun, fun _ ho => Option.some.inj ho ▸ hst⟩

/-- RECEIVE never raises: an iteration answers INCOMPLETE, stays in progress, or answers a frame's outcome (R130). -/
theorem execRecv_answers {s t : State} (h : execRecv s = .next t) : Answers s t := by
  obtain ⟨-, rfl⟩ | ⟨b, rest, -, hr⟩ | ⟨b, rest, u, st, -, hr, rfl⟩ := execRecv_cases h
  · exact .respond ⟨rfl, rfl, rfl, rfl, rfl⟩ (by decide)
  · obtain ⟨hctx, hbusy, -⟩ := rxStep_context hr
    exact ⟨hctx, .inr (.inr (hbusy rfl))⟩
  · obtain ⟨hctx, -, hst⟩ := rxStep_context hr
    rw [completeRecv_eq]
    exact .respond hctx (hst st rfl)

/-- How every command answers. -/
theorem exec_answers {i : Instr} {s t : State} (h : exec i s = .next t) : Answers s t := by
  cases i with
  | addf1 arg => exact addField_answers h
  | addf2 arg => exact addField_answers h
  | addf4 arg => exact addField_answers h
  | send => exact execSend_answers h
  | recv => exact execRecv_answers h
  | extf1 => exact extractField_answers h
  | extf2 => exact extractField_answers h
  | extf4 => exact extractField_answers h
  | rdreg arg => exact execRdreg_answers h

/-- Settles O44: a completed command with a status from 5 up has raised it, and `raise` changes the response only. -/
theorem raisedStatusChangesNothing : Obligations.RaisedStatusChangesNothing := by
  intro i s t hbusy h hdone hstatus
  obtain ⟨st, rfl⟩ | hlow | hstays := (exec_answers h).answer
  · rfl
  · omega
  · simp [hbusy, hdone] at hstays

/-! ### The step of the block and the host's turn (spec/00_scope.md R13) -/

/-- A step of the block keeps CMD, ARG, the configuration and the environment's turns, whatever it runs. -/
theorem blockStep_context {s t : State} (h : blockStep s = .next t) : SameContext s t := by
  obtain ⟨-, rfl⟩ | ⟨-, i, -, hi⟩ | ⟨-, -, rfl⟩ := blockStep_cases h
  · exact ⟨rfl, rfl, rfl, rfl, rfl⟩
  · exact (exec_answers hi).context
  · exact ⟨rfl, rfl, rfl, rfl, rfl⟩

/-- The block runs the instruction that the command in progress decodes to (R61). -/
theorem blockStep_of_decode_ok {s : State} {i : Instr} (hb : s.busy = true) (hd : decode (presented s) = .ok i) :
    blockStep s = exec i s := by
  simp [blockStep, hb, hd]

/-- The block raises ILLEGAL_COMMAND when the command in progress decodes to none (R67, R145). -/
theorem blockStep_of_decode_error {s : State} {e : DecodeError} (hb : s.busy = true)
    (hd : decode (presented s) = .error e) : blockStep s = .next (s.raise .illegalCommand) := by
  simp [blockStep, hb, hd, execIllegal]

/-- While a command is in progress, a step at the block's turn is the block's step. -/
theorem step_of_blockMoves {s u : State} (hb : s.busy = true) (h : BlockMoves s u) : step s = blockStep u := by
  obtain ⟨hp, rfl⟩ | ⟨c, v, hp, rfl⟩ | ⟨v, hp, rfl⟩ | hp := h
  · simp [step, turn, hp]
  · simp [step, turn, hp, hb]
  · simp [step, turn, hp, hb]
  · simp [step, turn, hp]

/-- The state the block moves from has the command in progress of the state it is the block's turn at. -/
theorem blockMoves_command {s u : State} (h : BlockMoves s u) : u.busy = s.busy ∧ presented u = presented s := by
  obtain ⟨-, rfl⟩ | ⟨c, v, -, rfl⟩ | ⟨v, -, rfl⟩ | hp := h
  · exact ⟨rfl, rfl⟩
  · exact ⟨rfl, rfl⟩
  · exact ⟨rfl, rfl⟩
  · obtain ⟨ts, o, rfl⟩ := State.pending_some hp
    exact ⟨rfl, rfl⟩

/-- Settles O5: at its turn the block steps, from a state with the same command. -/
theorem stepRunsTheDecodedCommand : Obligations.StepRunsTheDecodedCommand := by
  intro s u hbusy hmoves
  obtain ⟨hu, hcommand⟩ := blockMoves_command hmoves
  rw [step_of_blockMoves hbusy hmoves]
  refine ⟨fun i hd => ?_, fun e hd => ?_⟩
  · exact blockStep_of_decode_ok (hu.trans hbusy) ((congrArg decode hcommand).trans hd)
  · exact blockStep_of_decode_error (hu.trans hbusy) ((congrArg decode hcommand).trans hd)

/-- A command that is issued while none is in progress is presented (R13). -/
theorem step_issue {s u : State} {c : Command} (hb : s.busy = false) (hp : s.pending = some (.issue c, u)) :
    step s = .next (u.present c) := by
  simp [step, turn, hp, hb]

/-- While a command is in progress, a step keeps CMD and ARG (R13): only an issue and a reset write them, and both wait. -/
theorem step_keeps_command {s t : State} (hb : s.busy = true) (h : step s = .next t) :
    t.cmd = s.cmd ∧ t.arg = s.arg := by
  obtain hs | ⟨u, hu⟩ := step_cases h
  · exact ⟨(blockStep_context hs).cmd, (blockStep_context hs).arg⟩
  obtain ⟨hp, hs⟩ | ⟨c, -, hidle, -⟩ | ⟨-, hidle, -⟩ | ⟨b, hp, rfl⟩ | ⟨hp, rfl⟩ := hu
  · obtain ⟨ts, o, rfl⟩ := State.pending_some hp
    exact ⟨(blockStep_context hs).cmd, (blockStep_context hs).arg⟩
  · simp [hb] at hidle
  · simp [hb] at hidle
  · obtain ⟨ts, o, rfl⟩ := State.pending_some hp
    exact ⟨rfl, rfl⟩
  · obtain ⟨ts, o, rfl⟩ := State.pending_some hp
    exact ⟨rfl, rfl⟩

/-- Settles O8: a busy block keeps its command, and an idle one is presented the next command issued. -/
theorem oneCommandAtATime : Obligations.OneCommandAtATime := by
  intro s t h
  refine ⟨fun hbusy => step_keeps_command hbusy h, fun hidle c u hp => ?_⟩
  rw [step_issue hidle hp, Host.Outcome.next.injEq] at h
  exact h.symm

end Sys2Proof.Machine

/-! PROOFS. The statements of spec/10_state.md: the invariant R31 with its start and its step, progress, the validated packet
(R25), the in-place decode (R26), and which state each command writes. -/

namespace Sys2Proof.Machine

/-! ### Buffers under a run of writes -/

/-- A run of writes inside a buffer's size keeps every index inside it (R44). -/
theorem Memory.writeBytes_inside {m : Memory} {size a : Nat} {bs : List Byte} (h : ∀ c ∈ m, c.1 < size)
    (hbs : a + bs.length ≤ size) : ∀ c ∈ m.writeBytes a bs, c.1 < size := by
  intro c hc
  obtain hm | ⟨-, hlt⟩ := Memory.mem_writeBytes hc
  · exact h c hm
  · omega

theorem Memory.write_inside {m : Memory} {size a : Nat} (b : Byte) (h : ∀ c ∈ m, c.1 < size) (ha : a < size) :
    ∀ c ∈ m.write a b, c.1 < size :=
  Memory.writeBytes_inside (bs := [b]) h ha

/-- After a run of writes an index has a value if it had one or lies in the run. -/
theorem Memory.isSome_read_writeBytes {m : Memory} {a a' : Nat} {bs : List Byte}
    (h : (m.read a').isSome = true ∨ a ≤ a' ∧ a' < a + bs.length) : ((m.writeBytes a bs).read a').isSome = true := by
  by_cases hin : a ≤ a' ∧ a' < a + bs.length
  · obtain ⟨i, rfl⟩ := Nat.exists_eq_add_of_le hin.1
    rw [Memory.read_writeBytes_inside m bs (by omega)]
    rfl
  · rw [Memory.read_writeBytes_outside m bs (by omega)]
    exact h.resolve_right hin

/-- A byte written at the end of a run that has values makes the run one longer. -/
theorem Memory.isSome_read_write_end {m : Memory} {n : Nat} (b : Byte) (h : ∀ a, a < n → (m.read a).isSome = true) :
    ∀ a, a < n + 1 → ((m.write n b).read a).isSome = true := by
  intro a ha
  refine Memory.isSome_read_writeBytes (bs := [b]) ?_
  by_cases hlt : a < n
  · exact .inl (h a hlt)
  · exact .inr ⟨by omega, ha⟩

/-- The first bytes of a run that reads. -/
theorem Memory.readBytes_take {m : Memory} {a n k : Nat} {bs : List Byte} (h : m.readBytes a n = some bs) (hk : k ≤ n) :
    m.readBytes a k = some (bs.take k) := by
  have hlen := Memory.length_of_readBytes h
  refine Memory.readBytes_eq_some.2 ⟨by rw [List.length_take, hlen, Nat.min_eq_left hk], fun i hi => ?_⟩
  rw [List.getElem_take]
  exact Memory.read_of_readBytes h _

/-- A run that reads is its first byte and the run behind it. -/
theorem Memory.readBytes_cons {m : Memory} {a n : Nat} {b : Byte} {bs : List Byte} :
    m.readBytes a (n + 1) = some (b :: bs) ↔ m.read a = some b ∧ m.readBytes (a + 1) n = some bs := by
  rw [Memory.readBytes]
  cases m.read a <;> cases m.readBytes (a + 1) n <;> simp

/-- The entries of a canonical buffer are exactly what its indices read as. -/
theorem Memory.read_eq_some_iff_mem {m : Memory} (h : m.wf) (a : Nat) (b : Byte) : m.read a = some b ↔ (a, b) ∈ m := by
  induction m with
  | nil => simp
  | cons c m ih =>
    obtain ⟨hbelow, hm⟩ := List.pairwise_cons.1 h
    rw [Memory.read_cons, List.mem_cons]
    split
    · next heq =>
      subst heq
      have hnot : (c.1, b) ∉ m := fun hmem => Nat.lt_irrefl _ (hbelow (c.1, b) hmem)
      simp [hnot, Prod.ext_iff, eq_comm]
    · next hne =>
      rw [ih hm]
      simp [Prod.ext_iff, Ne.symm hne]

/-- Settles O24: two strictly rising lists with the same entries are the same list. -/
theorem equalContentsAreEqualBuffers : Obligations.EqualContentsAreEqualBuffers := by
  intro m m' hm hm' hread
  have : Std.Irrefl fun c d : Host.Cell => c.1 < d.1 := ⟨fun c => Nat.lt_irrefl c.1⟩
  have : Std.Antisymm fun c d : Host.Cell => c.1 < d.1 := ⟨fun _ _ h h' => absurd h (Nat.lt_asymm h')⟩
  refine List.Pairwise.eq_of_mem_iff hm hm' fun ⟨a, b⟩ => ?_
  rw [← Memory.read_eq_some_iff_mem hm, ← Memory.read_eq_some_iff_mem hm', hread]

/-! ### Decoding in the buffer itself (R26, R88) -/

/-- Decode's loop in the buffer writes what it writes from a scratch buffer: each byte is read before the write position
gets there. -/
theorem decodeInPlace_eq_writeBytes {rem : Byte} {i : Nat} {m : Memory} {es : List Byte}
    (h : m.readBytes (i + 1) es.length = some es) :
    decodeInPlace rem (i + 1) es.length m = some (m.writeBytes i (decodeLoop rem es)) := by
  induction es generalizing rem i m with
  | nil => rfl
  | cons e es ih =>
    obtain ⟨he, hes⟩ := Memory.readBytes_cons.1 h
    have hbehind : ∀ x, (m.write i x).readBytes (i + 1 + 1) es.length = some es := fun x => by
      rw [← hes]
      exact Memory.readBytes_congr fun a ha _ => Memory.read_write_ne m x (by omega)
    simp only [List.length_cons, decodeInPlace, he, Nat.add_sub_cancel, decodeLoop_cons, ih (hbehind _)]
    split <;> rfl

/-- Settles O16: the two buffers are even the same data. -/
theorem inPlaceDecodeRefinesScratch : Obligations.InPlaceDecodeRefinesScratch := by
  intro m e es l hl h
  obtain ⟨n, rfl⟩ := Nat.exists_eq_add_of_le' hl
  obtain ⟨-, hes⟩ := Memory.readBytes_cons.1 h
  have hlen := Memory.length_of_readBytes hes
  have hread : m.readBytes 1 es.dropLast.length = some es.dropLast := by
    rw [List.dropLast_eq_take]
    simpa [hlen] using Memory.readBytes_take hes (Nat.le_succ n)
  have hdecode := decodeInPlace_eq_writeBytes (rem := e) (i := 0) hread
  rw [List.length_dropLast, hlen] at hdecode
  exact ⟨_, hdecode, fun _ => rfl⟩

/-! ### Which state each command writes (R15 to R25) -/

/-- `t` has the send buffer of `s` (R18, R19). -/
structure SameSendBuffer (s t : State) : Prop where
  txb : t.txb = s.txb
  txLen : t.txLen = s.txLen

/-- `t` has the receive state of `s` (R20 to R23, R25, R46), but for EXTRACT_POS. -/
structure SameReceiver (s t : State) : Prop where
  rxb : t.rxb = s.rxb
  rxIdx : t.rxIdx = s.rxIdx
  rxOvf : t.rxOvf = s.rxOvf
  rxLen : t.rxLen = s.rxLen
  pktValid : t.pktValid = s.pktValid
  tin : t.tin = s.tin

/-- What the instruction `i`, from `s` to `t`, leaves alone of the state that commands write. -/
structure Frame (i : Instr) (s t : State) : Prop where
  sendBuffer : sendSide i = false → SameSendBuffer s t
  tout : i ≠ .send → t.tout = s.tout
  receiver : i ≠ .recv → SameReceiver s t
  extractPos : receiveSide i = false → t.extractPos = s.extractPos

theorem addField_frame {w : Width} {arg : Word} {s t : State} (h : addField w arg s = .next t) :
    t.tout = s.tout ∧ SameReceiver s t ∧ t.extractPos = s.extractPos := by
  obtain ⟨-, rfl⟩ | ⟨-, rfl⟩ := addField_cases h <;> exact ⟨rfl, ⟨rfl, rfl, rfl, rfl, rfl, rfl⟩, rfl⟩

theorem execSend_frame {s t : State} (h : execSend s = .next t) :
    SameReceiver s t ∧ t.extractPos = s.extractPos := by
  obtain ⟨-, rfl⟩ | ⟨-, fields, -, rfl⟩ := execSend_cases h <;> exact ⟨⟨rfl, rfl, rfl, rfl, rfl, rfl⟩, rfl⟩

theorem extractField_frame {w : Width} {s t : State} (h : extractField w s = .next t) :
    SameSendBuffer s t ∧ t.tout = s.tout ∧ SameReceiver s t := by
  obtain ⟨-, rfl⟩ | ⟨-, -, rfl⟩ | ⟨-, -, bs, -, rfl⟩ := extractField_cases h <;>
    exact ⟨⟨rfl, rfl⟩, rfl, ⟨rfl, rfl, rfl, rfl, rfl, rfl⟩⟩

theorem execRdreg_frame {arg : Word} {s t : State} (h : execRdreg arg s = .next t) :
    SameSendBuffer s t ∧ t.tout = s.tout ∧ SameReceiver s t ∧ t.extractPos = s.extractPos := by
  obtain ⟨v, -, rfl⟩ | ⟨-, rfl⟩ := execRdreg_cases h <;>
    exact ⟨⟨rfl, rfl⟩, rfl, ⟨rfl, rfl, rfl, rfl, rfl, rfl⟩, rfl⟩

theorem finishFrame_frame {l : Nat} {s u : State} {st : Status} (h : finishFrame l s = .ok (u, st)) :
    SameSendBuffer s u ∧ u.tout = s.tout := by
  obtain ⟨-, rfl, -⟩ | ⟨-, -, rfl, -⟩ | ⟨-, -, -, enc, -, ⟨-, -, rfl⟩ | ⟨-, -, rfl⟩⟩ := finishFrame_cases h <;>
    exact ⟨⟨rfl, rfl⟩, rfl⟩

theorem rxStep_frame {b : Byte} {rest : List Byte} {s t : State} {o : Option Status}
    (h : rxStep b rest s = .ok (t, o)) : SameSendBuffer s t ∧ t.tout = s.tout := by
  obtain ⟨-, ⟨-, -, -, rfl⟩ | ⟨-, -, -, rfl⟩ | ⟨-, st, -, hf⟩⟩ := rxStep_cases h
  · exact ⟨⟨rfl, rfl⟩, rfl⟩
  · exact ⟨⟨rfl, rfl⟩, rfl⟩
  · obtain ⟨⟨htxb, htxLen⟩, htout⟩ := finishFrame_frame hf
    exact ⟨⟨htxb, htxLen⟩, htout⟩

theorem execRecv_frame {s t : State} (h : execRecv s = .next t) : SameSendBuffer s t ∧ t.tout = s.tout := by
  obtain ⟨-, rfl⟩ | ⟨b, rest, -, hr⟩ | ⟨b, rest, u, st, -, hr, rfl⟩ := execRecv_cases h
  · exact ⟨⟨rfl, rfl⟩, rfl⟩
  · exact rxStep_frame hr
  · obtain ⟨⟨htxb, htxLen⟩, htout⟩ := rxStep_frame hr
    rw [completeRecv_eq]
    exact ⟨⟨htxb, htxLen⟩, htout⟩

theorem addField_frame_of {i : Instr} {w : Width} {arg : Word} {s t : State} (h : addField w arg s = .next t)
    (hi : sendSide i = true) : Frame i s t :=
  have ⟨htout, hrx, hpos⟩ := addField_frame h
  ⟨by simp [hi], fun _ => htout, fun _ => hrx, fun _ => hpos⟩

theorem extractField_frame_of {i : Instr} {w : Width} {s t : State} (h : extractField w s = .next t)
    (hi : receiveSide i = true) : Frame i s t :=
  have ⟨htx, htout, hrx⟩ := extractField_frame h
  ⟨fun _ => htx, fun _ => htout, fun _ => hrx, by simp [hi]⟩

/-- The frame of every instruction. -/
theorem exec_frame {i : Instr} {s t : State} (h : exec i s = .next t) : Frame i s t := by
  cases i with
  | addf1 arg => exact addField_frame_of h rfl
  | addf2 arg => exact addField_frame_of h rfl
  | addf4 arg => exact addField_frame_of h rfl
  | send =>
    obtain ⟨hrx, hpos⟩ := execSend_frame h
    exact ⟨nofun, fun hne => absurd rfl hne, fun _ => hrx, fun _ => hpos⟩
  | recv =>
    obtain ⟨htx, htout⟩ := execRecv_frame h
    exact ⟨fun _ => htx, fun _ => htout, fun hne => absurd rfl hne, nofun⟩
  | extf1 => exact extractField_frame_of h rfl
  | extf2 => exact extractField_frame_of h rfl
  | extf4 => exact extractField_frame_of h rfl
  | rdreg arg =>
    obtain ⟨htx, htout, hrx, hpos⟩ := execRdreg_frame h
    exact ⟨fun _ => htx, fun _ => htout, fun _ => hrx, fun _ => hpos⟩

/-- Settles O46: the frame of the instruction, and the context that every command keeps. -/
theorem onlyTheNamedCommandsWrite : Obligations.OnlyTheNamedCommandsWrite := by
  intro i s t h
  obtain ⟨htx, htout, hrx, hpos⟩ := exec_frame h
  obtain ⟨hcfg, hcmd, harg, hscript, honward⟩ := (exec_answers h).context
  refine ⟨fun hi => ?_, htout, fun hi => ?_, hpos, hcfg, hcmd, harg, hscript, honward⟩
  · exact ⟨(htx hi).txb, (htx hi).txLen⟩
  · obtain ⟨hrxb, hidx, hovf, hlen, hvalid, htin⟩ := hrx hi
    exact ⟨hrxb, hidx, hovf, hlen, hvalid, htin⟩

/-! ### A placed command and the start values -/

/-- A table word is the instruction that its command decodes to. -/
theorem decodeTableWord_eq_some {nbits w : Nat} {i : Instr} :
    decodeTableWord nbits w = some i ↔ decode (Command.ofBits (w % 2 ^ nbits)) = .ok i := by
  unfold decodeTableWord
  cases decode (Command.ofBits (w % 2 ^ nbits)) <;> simp

/-- Settles O6: the placed word is the command in progress and the `block` turn is the next one. -/
theorem placedCommandRunsNext : Obligations.PlacedCommandRunsNext := by
  intro s nbits w i hw
  have hmoves : BlockMoves (s.withFetchWord nbits w) (s.present (Command.ofBits (w % 2 ^ nbits))) :=
    .inr (.inr (.inr (State.pending_script rfl)))
  rw [step_of_blockMoves rfl hmoves]
  exact blockStep_of_decode_ok rfl (decodeTableWord_eq_some.1 hw)

/-- Settles O10: the values that `State.resetOf` writes. -/
theorem resetValues : Obligations.ResetValues := fun _ => ⟨rfl, rfl, rfl, rfl, rfl, rfl⟩

/-! ### An induction for every property that steps keep -/

/-- `P` is kept by everything a step is made of: a command, the rejection of an illegal one, and the turns of the
environment. -/
structure KeptByParts (P : State → Prop) : Prop where
  exec : ∀ {i s t}, P s → exec i s = .next t → P t
  illegal : ∀ {s}, P s → P (s.raise .illegalCommand)
  turns : ∀ {s} ts o, P s → P ((s.setScript ts).setOnward o)
  present : ∀ {s} c, P s → P (s.present c)
  reset : ∀ {s}, P s → P s.afterReset
  setTin : ∀ {s} bs, P s → P (s.setTin bs)
  setTout : ∀ {s} bs, P s → P (s.setTout bs)

section
variable {P : State → Prop}

theorem KeptByParts.pending (hP : KeptByParts P) {s u : State} {t : Turn} (h : P s) (hp : s.pending = some (t, u)) : P u := by
  obtain ⟨ts, o, rfl⟩ := State.pending_some hp
  exact hP.turns ts o h

theorem KeptByParts.blockStep (hP : KeptByParts P) {s t : State} (h : P s) (hs : blockStep s = .next t) : P t := by
  obtain ⟨-, rfl⟩ | ⟨-, i, -, hi⟩ | ⟨-, -, rfl⟩ := blockStep_cases hs
  · exact h
  · exact hP.exec h hi
  · exact hP.illegal h

/-- A property kept by the parts of a step is kept by the step. -/
theorem KeptByParts.step (hP : KeptByParts P) {s t : State} (h : P s) (hs : step s = .next t) : P t := by
  obtain hb | ⟨u, hu⟩ := step_cases hs
  · exact hP.blockStep h hb
  obtain ⟨hp, hb⟩ | ⟨c, hp, -, rfl⟩ | ⟨hp, -, rfl⟩ | ⟨b, hp, rfl⟩ | ⟨hp, rfl⟩ := hu
  · exact hP.blockStep (hP.pending h hp) hb
  · exact hP.present c (hP.pending h hp)
  · exact hP.reset (hP.pending h hp)
  · exact hP.setTin _ (hP.pending h hp)
  · exact hP.setTout _ (hP.pending h hp)

end

/-- A status code is one of the nine (R140). -/
theorem Status.code_toNat_le (st : Status) : st.code.toNat ≤ 8 := by cases st <;> decide

/-- A cursor keeps every number up to the largest RXCAP (R10, log entry 9). -/
theorem toNat_cursor {n : Nat} (h : n ≤ 254) : (BitVec.ofNat 8 n).toNat = n := by
  rw [BitVec.toNat_ofNat, Nat.mod_eq_of_lt (by omega)]

theorem State.setRxOvf_self {s : State} {b : Bool} (h : s.rxOvf = b) : s.setRxOvf b = s := by subst h; rfl

end Sys2Proof.Machine

namespace Sys2Proof

open Machine

/-! ### The invariant under the updates of the state (R31) -/

section
variable {s : State}

theorem StateInv.respond (h : StateInv s) (st : Status) (v : Word) : StateInv (s.respond st v) :=
  { h with statusKnown := st.code_toNat_le }

theorem StateInv.raise (h : StateInv s) (st : Status) : StateInv (s.raise st) := h.respond st 0

theorem StateInv.emit (h : StateInv s) (bs : List Byte) : StateInv (s.emit bs) := { h with }

/-- A send buffer with room for the checksum behind its written bytes meets R31(a). -/
theorem StateInv.setTx {m : Memory} {n : Nat} (h : StateInv s) (hwf : m.wf) (hin : ∀ c ∈ m, c.1 < s.cfg.capacity)
    (hwritten : ∀ a, a < n → (m.read a).isSome = true) (hn : n + 1 ≤ s.cfg.capacity) : StateInv (s.setTx m n) :=
  have hcap := s.cfg.capacity_le
  have hlen : (s.setTx m n).txLen.toNat = n := toNat_cursor (by omega)
  { h with
    txWf := hwf
    txInside := hin
    txWritten := fun a ha => hwritten a (hlen ▸ ha)
    txCursor := by simp only [hlen, State.setTx_cfg]; omega }

theorem StateInv.rxIdx_lt (h : StateInv s) : s.rxIdx.toNat < s.cfg.rxcap := by
  have := h.rxCursor
  have := s.cfg.rxcap_eq
  omega

/-- A byte below the last index of RXB is buffered (R124). -/
theorem StateInv.bufferByte (h : StateInv s) (b : Byte) (rest : List Byte) (hi : s.rxIdx.toNat < s.cfg.rxcap - 1) :
    StateInv ((s.takeByte rest (s.rxb.write s.rxIdx.toNat b)).setRxIdx (s.rxIdx.toNat + 1)) :=
  have hcap := s.cfg.rxcap_le
  have hidx : (BitVec.ofNat 8 (s.rxIdx.toNat + 1)).toNat = s.rxIdx.toNat + 1 := toNat_cursor (by omega)
  { h with
    rxWf := Memory.write_wf h.rxWf _ _
    rxInside := Memory.write_inside (size := s.cfg.rxcap) b h.rxInside (by omega)
    rxWritten := fun a ha => Memory.isSome_read_write_end b h.rxWritten a (hidx ▸ ha)
    rxPayload := nofun
    rxCursor := by simp only [State.setRxIdx_rxIdx, State.setRxIdx_cfg, State.takeByte_cfg, hidx]; omega
    rxOverflow := fun ho => absurd (h.rxOverflow ho) (by omega)
    packet := nofun }

/-- A byte at the last index of RXB sets RX_OVF (R124). -/
theorem StateInv.overflowByte (h : StateInv s) (b : Byte) (rest : List Byte) (hi : s.rxIdx.toNat = s.cfg.rxcap - 1) :
    StateInv ((s.takeByte rest (s.rxb.write s.rxIdx.toNat b)).setRxOvf true) :=
  { h with
    rxWf := Memory.write_wf h.rxWf _ _
    rxInside := Memory.write_inside b h.rxInside h.rxIdx_lt
    rxWritten := fun a ha => Memory.isSome_read_write_end b h.rxWritten a (Nat.lt_succ_of_lt ha)
    rxPayload := nofun
    rxOverflow := fun _ => hi
    packet := nofun }

/-- The state in which frame completion begins meets the invariant but for an RX_OVF that is still set. -/
theorem StateInv.terminated (h : StateInv s) (rest : List Byte) : StateInv ((terminated s rest).setRxOvf false) :=
  have hi := h.rxIdx_lt
  have hcap := s.cfg.rxcap_le
  have hlen : (BitVec.ofNat 8 (s.rxIdx.toNat + 1)).toNat = s.rxIdx.toNat + 1 := toNat_cursor (by omega)
  { h with
    rxWf := Memory.write_wf h.rxWf _ _
    rxInside := Memory.write_inside _ h.rxInside hi
    rxWritten := nofun
    rxPayload := nofun
    rxCursor := Nat.zero_le _
    rxOverflow := nofun
    packet := nofun
    rxLength := hlen.trans_le hi }

/-- At a frame boundary without a packet, RXB and RX_LEN may be written (R127, R128). -/
theorem StateInv.setFrame {m : Memory} {n : Nat} (h : StateInv s) (hidx : s.rxIdx = 0) (hv : s.pktValid = false)
    (hwf : m.wf) (hin : ∀ c ∈ m, c.1 < s.cfg.rxcap) (hn : n ≤ s.cfg.rxcap) : StateInv ((s.setRxb m).setRxLen n) :=
  have hcap := s.cfg.rxcap_le
  have hlen : (BitVec.ofNat 8 n).toNat = n := toNat_cursor (by omega)
  { h with
    rxWf := hwf
    rxInside := hin
    rxWritten := by simp [hidx]
    rxPayload := by simp [hv]
    packet := by simp [hv]
    rxLength := hlen.trans_le hn }

/-- At a frame boundary, a written payload that leaves room for its checksum may be dispatched (R129). -/
theorem StateInv.deliver {n : Nat} (h : StateInv s) (hidx : s.rxIdx = 0) (ho : s.rxOvf = false)
    (hn : n + 1 ≤ s.cfg.capacity) (hwritten : ∀ a, a < n → (s.rxb.read a).isSome = true) : StateInv (s.deliver n) :=
  have hcap := s.cfg.capacity_le
  have hlen : (BitVec.ofNat 8 n).toNat = n := toNat_cursor (by omega)
  { h with
    rxPayload := fun _ a ha => hwritten a (hlen ▸ ha)
    packet := fun _ => ⟨ho, by simp [hidx], hlen.symm ▸ hn, Nat.zero_le _⟩
    rxLength := by simp only [State.deliver_rxLen, State.deliver_cfg, hlen, s.cfg.rxcap_eq]; omega
    extractCursor := ⟨fun _ => Nat.zero_le _, fun _ => rfl⟩ }

/-- Within the payload EXTRACT_POS may move (R132). -/
theorem StateInv.setExtractPos {n : Nat} (h : StateInv s) (hv : s.pktValid = true) (hn : n ≤ s.rxLen.toNat) :
    StateInv (s.setExtractPos n) :=
  have ⟨ho, hidx, hroom, _⟩ := h.packet hv
  have hcap := s.cfg.capacity_le
  have hpos : (BitVec.ofNat 8 n).toNat = n := toNat_cursor (by omega)
  { h with
    packet := fun _ => ⟨ho, hidx, hroom, hpos.trans_le hn⟩
    extractCursor := by simp only [State.setExtractPos_extractPos, State.setExtractPos_cfg, hpos]; omega }

end

/-- The start values meet the invariant, whatever CAP and REV are (R29). -/
theorem stateInv_resetOf (cfg : Config) : StateInv (State.resetOf cfg) where
  txWf := .nil
  txInside := nofun
  txWritten := nofun
  txCursor := ⟨fun _ => Nat.zero_le _, fun _ => rfl⟩
  rxWf := .nil
  rxInside := nofun
  rxWritten := nofun
  rxPayload := nofun
  rxCursor := Nat.zero_le _
  rxOverflow := nofun
  packet := nofun
  rxLength := Nat.zero_le _
  extractCursor := ⟨fun _ => Nat.zero_le _, fun _ => rfl⟩
  statusKnown := Nat.zero_le _

/-! ### The invariant under the commands -/

theorem addField_keeps_inv {w : Width} {arg : Word} {s t : State} (h : StateInv s) (ht : addField w arg s = .next t) :
    StateInv t := by
  obtain ⟨-, rfl⟩ | ⟨hroom, rfl⟩ := addField_cases ht
  · exact h.raise _
  · have hlen : (reverseField s.cfg.rev w (argImage w arg)).length = widthBytes w := by simp
    refine (h.setTx (Memory.writeBytes_wf h.txWf _ _) (Memory.writeBytes_inside h.txInside (by omega)) (fun a ha => ?_)
      hroom).respond _ _
    refine Memory.isSome_read_writeBytes ?_
    by_cases hold : a < s.txLen.toNat
    · exact .inl (h.txWritten a hold)
    · exact .inr (by omega)

theorem execSend_keeps_inv {s t : State} (h : StateInv s) (ht : execSend s = .next t) : StateInv t := by
  obtain ⟨-, rfl⟩ | ⟨hroom, fields, -, rfl⟩ := execSend_cases ht
  · exact h.raise _
  · have hsent : StateInv (s.setTx (s.txb.write s.txLen.toNat (checksum fields)) 0) :=
      h.setTx (Memory.write_wf h.txWf _ _) (Memory.write_inside _ h.txInside hroom) nofun (by omega)
    exact (hsent.emit _).respond _ _

theorem extractField_keeps_inv {w : Width} {s t : State} (h : StateInv s) (ht : extractField w s = .next t) :
    StateInv t := by
  obtain ⟨-, rfl⟩ | ⟨-, -, rfl⟩ | ⟨hv, hin, bs, -, rfl⟩ := extractField_cases ht
  · exact h.raise _
  · exact h.raise _
  · exact (h.setExtractPos hv hin).respond _ _

theorem execRdreg_keeps_inv {arg : Word} {s t : State} (h : StateInv s) (ht : execRdreg arg s = .next t) : StateInv t := by
  obtain ⟨v, -, rfl⟩ | ⟨-, rfl⟩ := execRdreg_cases ht
  · exact h.respond _ _
  · exact h.raise _

/-- Frame completion brings a frame boundary whose RX_OVF alone may break the invariant into it (R125 to R129). -/
theorem finishFrame_keeps_inv {l : Nat} {s u : State} {st : Status} (h : StateInv (s.setRxOvf false))
    (hidx : s.rxIdx = 0) (hv : s.pktValid = false) (hf : finishFrame l s = .ok (u, st)) : StateInv u := by
  obtain ⟨-, rfl, -⟩ | ⟨ho, -, rfl, -⟩ | ⟨ho, hl, hc, enc, he, hend⟩ := finishFrame_cases hf
  · exact h
  · exact State.setRxOvf_self ho ▸ h
  · have hs : StateInv s := State.setRxOvf_self ho ▸ h
    have hraw : (decodeFrame enc).length = l - 2 := by simp [Memory.length_of_readBytes he]
    have hframe : StateInv ((s.setRxb (s.rxb.writeBytes 0 (decodeFrame enc))).setRxLen (l - 2)) :=
      hs.setFrame hidx hv (Memory.writeBytes_wf hs.rxWf _ _) (Memory.writeBytes_inside hs.rxInside (by omega)) (by omega)
    obtain ⟨-, -, rfl⟩ | ⟨-, -, rfl⟩ := hend
    · refine hframe.deliver hidx ho ?_ fun a ha => Memory.isSome_read_writeBytes (.inr (by omega))
      have := s.cfg.rxcap_eq
      simp only [State.setRxLen_cfg, State.setRxb_cfg]
      omega
    · exact hframe

theorem rxStep_keeps_inv {b : Byte} {rest : List Byte} {s t : State} {o : Option Status} (h : StateInv s)
    (hr : rxStep b rest s = .ok (t, o)) : StateInv t := by
  obtain ⟨-, ⟨-, hi, -, rfl⟩ | ⟨-, hi, -, rfl⟩ | ⟨-, st, -, hf⟩⟩ := rxStep_cases hr
  · exact h.bufferByte b rest hi
  · exact h.overflowByte b rest hi
  · exact finishFrame_keeps_inv (h.terminated rest) rfl rfl hf

theorem execRecv_keeps_inv {s t : State} (h : StateInv s) (ht : execRecv s = .next t) : StateInv t := by
  obtain ⟨-, rfl⟩ | ⟨b, rest, -, hr⟩ | ⟨b, rest, u, st, -, hr, rfl⟩ := execRecv_cases ht
  · exact h.respond _ _
  · exact rxStep_keeps_inv h hr
  · rw [completeRecv_eq]
    exact (rxStep_keeps_inv h hr).respond _ _

/-- Every instruction keeps the invariant. -/
theorem exec_keeps_inv {i : Instr} {s t : State} (h : StateInv s) (ht : exec i s = .next t) : StateInv t := by
  cases i with
  | addf1 arg => exact addField_keeps_inv h ht
  | addf2 arg => exact addField_keeps_inv h ht
  | addf4 arg => exact addField_keeps_inv h ht
  | send => exact execSend_keeps_inv h ht
  | recv => exact execRecv_keeps_inv h ht
  | extf1 => exact extractField_keeps_inv h ht
  | extf2 => exact extractField_keeps_inv h ht
  | extf4 => exact extractField_keeps_inv h ht
  | rdreg arg => exact execRdreg_keeps_inv h ht

theorem stateInv_keptByParts : KeptByParts StateInv where
  exec := exec_keeps_inv
  illegal h := h.raise _
  turns _ _ h := { h with }
  present _ h := { h with }
  reset {s} _ := { stateInv_resetOf s.cfg with }
  setTin _ h := { h with }
  setTout _ h := { h with }

/-- Settles O52: each part of a step keeps the invariant. -/
theorem stepKeepsTheInvariant : Obligations.StepKeepsTheInvariant := fun _ _ => stateInv_keptByParts.step

/-! ### Progress: no access faults inside the invariant (R30, R44) -/

/-- Frame completion answers when the whole frame was written inside RXB. -/
theorem finishFrame_answers {l : Nat} {s : State} (hc : l ≤ s.cfg.rxcap)
    (hwritten : ∀ a, a < l → (s.rxb.read a).isSome = true) : ∃ u st, finishFrame l s = .ok (u, st) := by
  cases ho : s.rxOvf with
  | true => exact ⟨_, _, finishFrame_overflow ho⟩
  | false =>
    by_cases hl : l < 3
    · exact ⟨_, _, finishFrame_runt ho hl⟩
    · obtain ⟨enc, he⟩ := Memory.readBytes_isSome.2 fun a (_ : 0 ≤ a) (ha : a < 0 + l) => hwritten a (by omega)
      rw [finishFrame_decoded ho (by omega) hc he]
      split
      · exact ⟨_, _, rfl⟩
      · exact ⟨_, _, rfl⟩

theorem rxStep_answers (b : Byte) (rest : List Byte) {s : State} (h : StateInv s) :
    ∃ t o, rxStep b rest s = .ok (t, o) := by
  by_cases hb : b = terminator
  · subst hb
    obtain ⟨u, st, hf⟩ := finishFrame_answers (s := terminated s rest) h.rxIdx_lt
      (Memory.isSome_read_write_end terminator h.rxWritten)
    exact ⟨u, some st, by rw [rxStep_terminator h.rxIdx_lt, hf]⟩
  · rw [rxStep_byte hb h.rxIdx_lt]
    split
    · exact ⟨_, _, rfl⟩
    · exact ⟨_, _, rfl⟩

theorem execRecv_next {s : State} (h : StateInv s) : ∃ t, execRecv s = .next t := by
  cases htin : s.tin with
  | nil => exact ⟨_, execRecv_empty htin⟩
  | cons b rest =>
    obtain ⟨t, o, hr⟩ := rxStep_answers b rest h
    cases o with
    | none => exact ⟨t, by simp [execRecv, htin, hr]⟩
    | some st => exact ⟨completeRecv t st, by simp [execRecv, htin, hr]⟩

theorem addField_next (w : Width) (arg : Word) (s : State) : ∃ t, addField w arg s = .next t := by
  by_cases hc : s.txLen.toNat + widthBytes w + 1 > s.cfg.capacity
  · exact ⟨_, addField_full hc⟩
  · exact ⟨_, addField_room (not_lt.mp hc)⟩

/-- The bytes that SEND checksums were written (R30). -/
theorem StateInv.sendFields {s : State} (h : StateInv s) : ∃ fields, s.txb.readBytes 0 s.txLen.toNat = some fields :=
  Memory.readBytes_isSome.2 fun a _ ha => h.txWritten a (by omega)

theorem execSend_next {s : State} (h : StateInv s) : ∃ t, execSend s = .next t := by
  by_cases hc : s.txLen.toNat + 1 > s.cfg.capacity
  · exact ⟨_, execSend_full hc⟩
  · obtain ⟨fields, hf⟩ := h.sendFields
    exact ⟨_, execSend_room (not_lt.mp hc) hf⟩

theorem extractField_next (w : Width) {s : State} (h : StateInv s) : ∃ t, extractField w s = .next t := by
  cases hv : s.pktValid with
  | false => exact ⟨_, extractField_noPacket hv⟩
  | true =>
    by_cases hp : s.extractPos.toNat + widthBytes w > s.rxLen.toNat
    · exact ⟨_, extractField_outOfData hv hp⟩
    · obtain ⟨bs, hbs⟩ := Memory.readBytes_isSome.2 fun a _ (ha : a < s.extractPos.toNat + widthBytes w) =>
        h.rxPayload hv a (by omega)
      exact ⟨_, extractField_field hv (not_lt.mp hp) h.rxLength hbs⟩

theorem execRdreg_next (arg : Word) (s : State) : ∃ t, execRdreg arg s = .next t := by
  unfold execRdreg
  split
  · exact ⟨_, rfl⟩
  · exact ⟨_, rfl⟩

/-- Every instruction answers a next state inside the invariant. -/
theorem exec_next (i : Instr) {s : State} (h : StateInv s) : ∃ t, exec i s = .next t := by
  cases i with
  | addf1 arg => exact addField_next .w1 arg s
  | addf2 arg => exact addField_next .w2 arg s
  | addf4 arg => exact addField_next .w4 arg s
  | send => exact execSend_next h
  | recv => exact execRecv_next h
  | extf1 => exact extractField_next .w1 h
  | extf2 => exact extractField_next .w2 h
  | extf4 => exact extractField_next .w4 h
  | rdreg arg => exact execRdreg_next arg s

theorem blockStep_next {s : State} (h : StateInv s) : ∃ t, blockStep s = .next t := by
  cases hb : s.busy with
  | false => exact ⟨s, by simp [blockStep, hb]⟩
  | true =>
    cases hd : decode (presented s) with
    | ok i => rw [blockStep_of_decode_ok hb hd]; exact exec_next i h
    | error e => exact ⟨_, blockStep_of_decode_error hb hd⟩

/-- Settles O53: a turn of the environment always answers, and the block's step answers inside the invariant. -/
theorem noStepFaults : Obligations.NoStepFaults := by
  intro s h
  unfold step turn
  split
  · exact blockStep_next h
  · split
    · exact blockStep_next h
    · exact ⟨_, rfl⟩
  · split
    · exact blockStep_next h
    · exact ⟨_, rfl⟩
  · exact ⟨_, rfl⟩
  · exact ⟨_, rfl⟩
  · next hp => exact blockStep_next (stateInv_keptByParts.pending h hp)

/-! ### The validated packet (R25) -/

/-- Without a packet nothing is claimed of RXB. -/
theorem PacketValidated.of_invalid {s : State} (h : s.pktValid = false) : PacketValidated s :=
  fun hv => absurd hv (by simp [h])

/-- The claim is about RXB, RX_LEN and PKT_VALID only. -/
theorem PacketValidated.of_sameReceiver {s t : State} (h : PacketValidated s) (hrx : SameReceiver s t) :
    PacketValidated t := by
  unfold PacketValidated
  rw [hrx.rxb, hrx.rxLen, hrx.pktValid]
  exact h

/-- Frame completion dispatches a decoded frame only after it validates, and RX_LEN is its length without the checksum
(R129). -/
theorem finishFrame_validated {l : Nat} {s u : State} {st : Status} (hv : s.pktValid = false)
    (hf : finishFrame l s = .ok (u, st)) : PacketValidated u := by
  obtain ⟨-, rfl, -⟩ | ⟨-, -, rfl, -⟩ | ⟨-, hl, hc, enc, he, ⟨hraw, -, rfl⟩ | ⟨-, -, rfl⟩⟩ := finishFrame_cases hf
  · exact .of_invalid hv
  · exact .of_invalid hv
  · intro _
    refine ⟨decodeFrame enc, ?_, hraw⟩
    have hcap := s.cfg.rxcap_le
    have hlen : (BitVec.ofNat 8 (l - 3)).toNat + 1 = (decodeFrame enc).length := by
      rw [toNat_cursor (by omega), decodeFrame_length, Memory.length_of_readBytes he]
      omega
    simp only [State.deliver_rxLen, hlen]
    exact Memory.readBytes_writeBytes _ _ _
  · exact .of_invalid hv

theorem rxStep_validated {b : Byte} {rest : List Byte} {s t : State} {o : Option Status}
    (hr : rxStep b rest s = .ok (t, o)) : PacketValidated t := by
  obtain ⟨-, ⟨-, -, -, rfl⟩ | ⟨-, -, -, rfl⟩ | ⟨-, st, -, hf⟩⟩ := rxStep_cases hr
  · exact .of_invalid rfl
  · exact .of_invalid rfl
  · exact finishFrame_validated rfl hf

theorem execRecv_validated {s t : State} (h : PacketValidated s) (ht : execRecv s = .next t) : PacketValidated t := by
  obtain ⟨-, rfl⟩ | ⟨b, rest, -, hr⟩ | ⟨b, rest, u, st, -, hr, rfl⟩ := execRecv_cases ht
  · exact h
  · exact rxStep_validated hr
  · rw [completeRecv_eq]
    have hu : PacketValidated u := rxStep_validated hr
    exact hu

/-- Every instruction keeps the packet validated: RECEIVE makes it so, and no other writes what it is about. -/
theorem exec_validated {i : Instr} {s t : State} (h : PacketValidated s) (ht : exec i s = .next t) :
    PacketValidated t := by
  by_cases hi : i = .recv
  · subst hi
    exact execRecv_validated h ht
  · exact h.of_sameReceiver ((exec_frame ht).receiver hi)

theorem packetValidated_keptByParts : KeptByParts PacketValidated where
  exec := exec_validated
  illegal h := h
  turns _ _ h := h
  present _ h := h
  reset _ := .of_invalid rfl
  setTin _ h := h
  setTout _ h := h

/-- Settles O56: each part of a step keeps the packet validated. -/
theorem validPacketStaysValidated : Obligations.ValidPacketStaysValidated := fun _ _ => packetValidated_keptByParts.step

/-! ### Consequences of the invariant -/

/-- R31(a), as SEND asks it: with CAP at least 1 there is room for the checksum. -/
theorem StateInv.send_room {s : State} (h : StateInv s) (hcap : 1 ≤ s.cfg.capacity) :
    s.txLen.toNat + 1 ≤ s.cfg.capacity := by
  have := h.txCursor.1 hcap
  omega

/-- Settles O30: the room comes from R31(a), the written bytes from R30. -/
theorem sendLacksRoomOnlyAtZeroCapacity : Obligations.SendLacksRoomOnlyAtZeroCapacity := by
  intro s h
  refine ⟨fun hcap => ?_, fun hzero => execSend_full (by omega)⟩
  obtain ⟨fields, hf⟩ := h.sendFields
  refine ⟨_, execSend_room (h.send_room hcap) hf, rfl, rfl, rfl, ?_⟩
  simp only [State.respond_tout, State.emit_tout, State.setTx_tout, List.length_append, encodeFrame_length,
    Memory.length_of_readBytes hf, List.length_singleton]
  omega

/-- No packet exists in overflow (R31(d)). -/
theorem StateInv.pktValid_of_overflow {s : State} (h : StateInv s) (ho : s.rxOvf = true) : s.pktValid = false := by
  by_contra hv
  obtain ⟨hfree, -⟩ := h.packet (Bool.eq_true_of_not_eq_false hv)
  simp [ho] at hfree

/-- Settles O50: R31(d) excludes a packet in overflow, so the order of the tests in `rxPhase` does not matter. -/
theorem receiveStatesOfTheSource : Obligations.ReceiveStatesOfTheSource := by
  intro s h
  cases ho : s.rxOvf with
  | true => simp [rxPhase, ho, h.pktValid_of_overflow ho, h.rxOverflow ho]
  | false =>
    cases hv : s.pktValid with
    | false => simp [rxPhase, ho, hv]
    | true =>
      obtain ⟨-, hidx, -⟩ := h.packet hv
      simp [rxPhase, ho, hv, hidx]

/-! ### From reset on -/

/-- Settles O51: the start values, TIN and the environment's turns being in none of the three. -/
theorem invariantsHoldAtReset : Obligations.InvariantsHoldAtReset := fun cfg _ _ _ =>
  ⟨{ stateInv_resetOf cfg with }, nofun, nofun⟩

/-- A run from a state of the invariant goes on and stays in it. -/
theorem runSteps_keeps_inv (k : Nat) {s : State} (h : StateInv s) : ∃ t, runSteps k s = .next t ∧ StateInv t := by
  induction k generalizing s with
  | zero => exact ⟨s, rfl, h⟩
  | succ k ih =>
    obtain ⟨u, hu⟩ := noStepFaults s h
    rw [runSteps, hu]
    exact ih (stepKeepsTheInvariant s u h hu)

/-- Settles O54: reset meets the invariant, and every run from there keeps it. -/
theorem everyRunFromResetIsSafe : Obligations.EveryRunFromResetIsSafe := fun cfg tin script onward k =>
  runSteps_keeps_inv k (invariantsHoldAtReset cfg tin script onward).1

end Sys2Proof

/-! PROOFS. The statements of spec/20_memory.md: the transport queues, what a step leaves unchanged, the lanes of a word, what
RECEIVE takes from TIN, and fields over the wire. -/

namespace Sys2Proof.Machine

/-! ### The transport queues (R46, R47, R58) -/

/-- With none listed, the turns of a cycle begin again (R166). -/
theorem State.pending_cycle {s : State} {t : Turn} {rest : List Turn} (hs : s.script = [])
    (ho : s.onward = .cycle (t :: rest)) : s.pending = some (t, s.setScript rest) := by
  simp [State.pending, hs, ho]

/-- With none listed, a free stream gives its next turn. -/
theorem State.pending_free {s : State} {n k : Nat} (hs : s.script = []) (ho : s.onward = .free n k) :
    s.pending = some (Config.freeTurn n k, s.setOnward (.free n (k + 1))) := by
  simp [State.pending, hs, ho]

/-- An arriving byte joins the tail of TIN (R46). -/
theorem step_arrive {s u : State} {b : Byte} (hp : s.pending = some (.arrive b, u)) :
    step s = .next (u.setTin (u.tin ++ [b])) := by
  simp [step, turn, hp]

/-- The output takes the head of TOUT (R47). -/
theorem step_consume {s u : State} (hp : s.pending = some (.consume, u)) : step s = .next (u.setTout u.tout.tail) := by
  simp [step, turn, hp, consumeOut]

/-- A block with no command does nothing (R148). -/
theorem step_idle {s : State} (hb : s.busy = false) (hp : s.pending = none) : step s = .next s := by
  simp [step, turn, hp, blockStep, hb]

/-- Settles O7: what a step does on each turn, and what `State.pending` answers. -/
theorem environmentMovesTheQueues : Obligations.EnvironmentMovesTheQueues := by
  refine ⟨fun s u b hp => ?_, fun s u hp => ?_, fun s => step_idle, fun s t rest => State.pending_script,
    fun s t rest => State.pending_cycle, fun s n k => State.pending_free, fun s => State.pending_eq_none⟩
  · obtain ⟨ts, o, rfl⟩ := State.pending_some hp
    exact step_arrive hp
  · obtain ⟨ts, o, rfl⟩ := State.pending_some hp
    exact step_consume hp

/-- Frame completion reads nothing of TIN and does not write it (R125 to R129). -/
theorem finishFrame_setTin {l : Nat} {s u : State} {st : Status} (bs : List Byte) (h : finishFrame l s = .ok (u, st)) :
    finishFrame l (s.setTin bs) = .ok (u.setTin bs, st) ∧ u.tin = s.tin := by
  obtain ⟨ho, rfl, rfl⟩ | ⟨ho, hl, rfl, rfl⟩ | ⟨ho, hl, hc, enc, he, hend⟩ := finishFrame_cases h
  · exact ⟨finishFrame_overflow ho, rfl⟩
  · exact ⟨finishFrame_runt ho hl, rfl⟩
  · rw [finishFrame_decoded (s := s.setTin bs) ho hl hc he]
    obtain ⟨hv, rfl, rfl⟩ | ⟨hv, rfl, rfl⟩ := hend
    · rw [if_pos hv]
      exact ⟨rfl, rfl⟩
    · rw [if_neg (by simp [hv])]
      exact ⟨rfl, rfl⟩

/-- The micro-step takes TIN's head, and what stands behind it does not matter (R124). -/
theorem rxStep_tin {b : Byte} {rest : List Byte} {s t : State} {o : Option Status} (h : rxStep b rest s = .ok (t, o)) :
    t.tin = rest ∧ ∀ tin bs, rxStep b bs (s.setTin tin) = .ok (t.setTin bs, o) := by
  obtain ⟨hi, ⟨hb, hlt, rfl, rfl⟩ | ⟨hb, hlast, rfl, rfl⟩ | ⟨rfl, st, rfl, hf⟩⟩ := rxStep_cases h
  · refine ⟨rfl, fun tin bs => ?_⟩
    rw [rxStep_byte (s := s.setTin tin) hb hi]
    exact if_pos hlt
  · refine ⟨rfl, fun tin bs => ?_⟩
    rw [rxStep_byte (s := s.setTin tin) hb hi]
    exact if_neg (by simp [hlast])
  · refine ⟨(finishFrame_setTin [] hf).2, fun tin bs => ?_⟩
    have hterm : terminated (s.setTin tin) bs = (terminated s rest).setTin bs := rfl
    rw [rxStep_terminator (s := s.setTin tin) hi, hterm, State.setTin_rxIdx, (finishFrame_setTin bs hf).1]

/-- An iteration on a byte that ends no frame leaves RECEIVE in progress (R130). -/
theorem execRecv_of_byte {b : Byte} {rest : List Byte} {s t : State} (htin : s.tin = b :: rest)
    (h : rxStep b rest s = .ok (t, none)) : execRecv s = .next t := by
  simp [execRecv, htin, h]

/-- An iteration that ends a frame completes RECEIVE with the frame's outcome (R130). -/
theorem execRecv_of_frame {b : Byte} {rest : List Byte} {s u : State} {st : Status} (htin : s.tin = b :: rest)
    (h : rxStep b rest s = .ok (u, some st)) : execRecv s = .next (completeRecv u st) := by
  simp [execRecv, htin, h]

theorem completeRecv_setTin (u : State) (st : Status) (bs : List Byte) :
    completeRecv (u.setTin bs) st = (completeRecv u st).setTin bs := by
  rw [completeRecv_eq, completeRecv_eq]
  rfl

/-- Settles O38: the micro-step with the later bytes behind its byte leaves just these behind. -/
theorem arrivalsDoNotDisturbTheMicroStep : Obligations.ArrivalsDoNotDisturbTheMicroStep := by
  intro s t more hne h
  change execRecv (s.setTin (s.tin ++ more)) = .next (t.setTin (t.tin ++ more))
  obtain ⟨hempty, -⟩ | ⟨b, rest, htin, hr⟩ | ⟨b, rest, u, st, htin, hr, rfl⟩ := execRecv_cases h
  · exact absurd hempty hne
  · obtain ⟨htail, hmore⟩ := rxStep_tin hr
    rw [htail]
    exact execRecv_of_byte (congrArg (· ++ more) htin) (hmore _ _)
  · obtain ⟨htail, hmore⟩ := rxStep_tin hr
    rw [completeRecv_eq, State.respond_tin, htail, ← completeRecv_eq, ← completeRecv_setTin]
    exact execRecv_of_frame (congrArg (· ++ more) htin) (hmore _ _)

/-- RECEIVE takes at most the head of TIN in an iteration (R54). -/
theorem execRecv_tin {s t : State} (h : execRecv s = .next t) : t.tin = s.tin ∨ ∃ b, s.tin = b :: t.tin := by
  obtain ⟨-, rfl⟩ | ⟨b, rest, htin, hr⟩ | ⟨b, rest, u, st, htin, hr, rfl⟩ := execRecv_cases h
  · exact .inl rfl
  · exact .inr ⟨b, by rw [htin, (rxStep_tin hr).1]⟩
  · exact .inr ⟨b, by rw [htin, completeRecv_eq, State.respond_tin, (rxStep_tin hr).1]⟩

/-- SEND appends one frame to TOUT or nothing (R117). -/
theorem execSend_tout {s t : State} (h : execSend s = .next t) :
    t.tout = s.tout ∨ ∃ raw, raw.length ≤ s.cfg.capacity ∧ t.tout = s.tout ++ encodeFrame raw := by
  obtain ⟨-, rfl⟩ | ⟨hroom, fields, hf, rfl⟩ := execSend_cases h
  · exact .inl rfl
  · exact .inr ⟨_, by simpa [Memory.length_of_readBytes hf] using hroom, rfl⟩

/-- How a command, or a step of the block, moves the two queues from `s` to `t`. -/
structure QueuesMove (s t : State) : Prop where
  tin : t.tin = s.tin ∨ ∃ b, s.tin = b :: t.tin
  tout : t.tout = s.tout ∨ ∃ raw, raw.length ≤ s.cfg.capacity ∧ t.tout = s.tout ++ encodeFrame raw

/-- RECEIVE alone moves TIN, and SEND alone TOUT. -/
theorem exec_queues {i : Instr} {s t : State} (h : exec i s = .next t) : QueuesMove s t := by
  have hframe := exec_frame h
  constructor
  · by_cases hi : i = .recv
    · subst hi
      exact execRecv_tin h
    · exact .inl (hframe.receiver hi).tin
  · by_cases hi : i = .send
    · subst hi
      exact execSend_tout h
    · exact .inl (hframe.tout hi)

theorem blockStep_queues {s t : State} (h : blockStep s = .next t) : QueuesMove s t := by
  obtain ⟨-, rfl⟩ | ⟨-, i, -, hi⟩ | ⟨-, -, rfl⟩ := blockStep_cases h
  · exact ⟨.inl rfl, .inl rfl⟩
  · exact exec_queues hi
  · exact ⟨.inl rfl, .inl rfl⟩

/-- Settles O49: the block's step moves the queues as its command does, and each other turn moves one of them or none. -/
theorem queuesMoveInOrder : Obligations.QueuesMoveInOrder := by
  intro s t h
  obtain hs | ⟨u, hturn⟩ := step_cases h
  · obtain ⟨htin, htout⟩ := blockStep_queues hs
    exact ⟨htin.imp_right .inl, htout.imp_right .inr⟩
  obtain ⟨hp, hs⟩ | ⟨c, hp, -, rfl⟩ | ⟨hp, -, rfl⟩ | ⟨b, hp, rfl⟩ | ⟨hp, rfl⟩ := hturn
  all_goals obtain ⟨ts, o, rfl⟩ := State.pending_some hp
  · obtain ⟨htin, htout⟩ := blockStep_queues hs
    exact ⟨htin.imp_right .inl, htout.imp_right .inr⟩
  · exact ⟨.inl rfl, .inl rfl⟩
  · exact ⟨.inl rfl, .inl rfl⟩
  · exact ⟨.inr (.inr ⟨b, _, hp, rfl⟩), .inl rfl⟩
  · exact ⟨.inl rfl, .inr (.inl ⟨_, hp, rfl⟩)⟩

/-! ### What a step leaves unchanged -/

/-- Settles O12: no command and no turn of the environment writes CAP or REV, and reset keeps them (R162). -/
theorem configurationNeverChanges : Obligations.ConfigurationNeverChanges := by
  intro s t h
  have hkept : KeptByParts fun u => u.cfg = s.cfg :=
    { exec := fun hu hi => (exec_answers hi).context.cfg.trans hu
      illegal := id
      turns := fun _ _ hu => hu
      present := fun _ hu => hu
      reset := id
      setTin := fun _ hu => hu
      setTout := fun _ hu => hu }
  exact hkept.step rfl h

/-- Everything a step of one member of a system can answer with a next system (R151). -/
theorem stepAt_cases {k : Nat} {sys sys' : List State} (h : stepAt k sys = .next sys') :
    (sys[k]? = none ∧ sys' = sys) ∨ ∃ s t, sys[k]? = some s ∧ step s = .next t ∧ sys' = sys.set k t := by
  unfold stepAt at h
  split at h
  · next hk => exact .inl ⟨hk, by simpa using h.symm⟩
  · next s hk =>
    cases hs : step s with
    | next t => simp only [hs, Host.Outcome.next.injEq] at h; exact .inr ⟨s, t, hk, hs, h.symm⟩
    | fault f => simp [hs] at h
    | refused r => simp [hs] at h

/-- Settles O57: the system changes at the place that steps and nowhere else. -/
theorem instancesShareNothing : Obligations.InstancesShareNothing := by
  intro k sys sys' h
  obtain ⟨hk, rfl⟩ | ⟨s, t, hk, hs, rfl⟩ := stepAt_cases h
  · exact ⟨rfl, fun _ _ => rfl, fun s hsome => by simp [hk] at hsome⟩
  · refine ⟨List.length_set, fun j hj => List.getElem?_set_ne hj.symm, fun u hu => ?_⟩
    obtain rfl : s = u := Option.some.inj (hk.symm.trans hu)
    exact ⟨t, hs, List.getElem?_set_self (List.getElem?_eq_some_iff.1 hk).1⟩

/-! ### Lanes (R49, R66, R132) -/

/-- The lowest lane of a word built from an image is its first byte. -/
theorem lane_ofLanes_zero (b : Byte) (bs : List Byte) : lane (ofLanes (b :: bs)) 0 = b := by
  refine BitVec.eq_of_getLsbD_eq fun i hi => ?_
  simp [lane, ofLanes, hi, show i < 32 by omega]

/-- The other lanes are those of the image's other bytes. -/
theorem lane_ofLanes_succ (b : Byte) (bs : List Byte) {k : Nat} (hk : k + 1 < 4) :
    lane (ofLanes (b :: bs)) (k + 1) = lane (ofLanes bs) k := by
  refine BitVec.eq_of_getLsbD_eq fun i hi => ?_
  have habove : b.getLsbD (8 * (k + 1) + i) = false := BitVec.getLsbD_of_ge _ _ (by omega)
  simp [lane, ofLanes, hi, habove, show 8 * (k + 1) + i < 32 by omega, show ¬ 8 * (k + 1) + i < 8 by omega,
    show 8 * (k + 1) + i - 8 = 8 * k + i by omega, show 8 * k + i < 32 by omega]

/-- Lane `k` of the word built from an image is byte `k` of it, and 0 above it (R49). -/
theorem lane_ofLanes (bs : List Byte) {k : Nat} (hk : k < 4) : lane (ofLanes bs) k = bs.getD k 0 := by
  induction bs generalizing k with
  | nil => simp [ofLanes, lane]
  | cons b bs ih =>
    cases k with
    | zero => exact lane_ofLanes_zero b bs
    | succ k => rw [lane_ofLanes_succ b bs hk, ih (by omega), List.getD_cons_succ]

/-- Byte `k` of ARG's image is lane `k` of ARG, and there is none from the width on (R66). -/
theorem argImage_getD (w : Width) (v : Word) {k : Nat} (hk : k < 4) :
    (argImage w v).getD k 0 = if k < widthBytes w then lane v k else 0 := by
  cases w <;> interval_cases k <;> rfl

/-- Settles O23: both are byte `k` of the image. -/
theorem fieldImageLanes : Obligations.FieldImageLanes := fun w v _ hk =>
  (lane_ofLanes _ hk).trans (argImage_getD w v hk)

/-! ### A frame carries its bytes (spec/40_codec.md R85, R91) -/

/-- A distance between block-length bytes is not 0 as a byte (R85). -/
theorem stuff_dist_ne_zero {raw : List Byte} (h : raw.length ≤ 254) : BitVec.ofNat 8 (stuff raw).1 ≠ 0#8 := by
  obtain ⟨hlow, hhigh⟩ := stuff_dist raw
  simp only [ne_eq, ← BitVec.toNat_inj, BitVec.toNat_ofNat]
  omega

/-- Decode's loop reads back what `stuff` wrote, while every distance fits the counter (R88). -/
theorem decodeLoop_stuff {raw : List Byte} (h : raw.length ≤ 254) :
    decodeLoop (BitVec.ofNat 8 (stuff raw).1) (stuff raw).2.dropLast = raw := by
  induction raw with
  | nil => rfl
  | cons b rest ih =>
    have hlen : rest.length ≤ 254 := Nat.le_of_succ_le h
    by_cases hb : b = 0#8
    · subst hb
      simp [stuff_zero, List.dropLast_cons_of_ne_nil (stuff_ne_nil rest), decodeLoop_cons, ih hlen]
    · have hcount : BitVec.ofNat 8 ((stuff rest).1 + 1) - 1#8 = BitVec.ofNat 8 (stuff rest).1 := by
        simp [BitVec.ofNat_add]
      simp [stuff_nonzero hb, List.dropLast_cons_of_ne_nil (stuff_ne_nil rest), decodeLoop_cons, hcount,
        stuff_dist_ne_zero hlen, ih hlen]

/-- Decode undoes Encode (R91). -/
theorem decodeFrame_encodeFrame {raw : List Byte} (h : raw.length ≤ 254) : decodeFrame (encodeFrame raw) = raw := by
  rw [encodeFrame_eq_stuff, decodeFrame_cons, decodeLoop_stuff h]

/-- Behind its first block-length byte a frame has no zero but its terminator (R85). -/
theorem stuff_zeroFree {raw : List Byte} (h : raw.length ≤ 254) :
    ∃ body, (stuff raw).2 = body ++ [terminator] ∧ ∀ b ∈ body, b ≠ 0#8 := by
  induction raw with
  | nil => exact ⟨[], rfl, nofun⟩
  | cons b rest ih =>
    have hlen : rest.length ≤ 254 := Nat.le_of_succ_le h
    obtain ⟨body, hbody, hfree⟩ := ih hlen
    by_cases hb : b = 0#8
    · exact ⟨BitVec.ofNat 8 (stuff rest).1 :: body, by simp [hb, stuff_zero, hbody],
        List.forall_mem_cons.2 ⟨stuff_dist_ne_zero hlen, hfree⟩⟩
    · exact ⟨b :: body, by simp [stuff_nonzero hb, hbody], List.forall_mem_cons.2 ⟨hb, hfree⟩⟩

/-- A frame is a zero-free body and the terminator (R85). -/
theorem encodeFrame_zeroFree {raw : List Byte} (h : raw.length ≤ 254) :
    ∃ body, encodeFrame raw = body ++ [terminator] ∧ ∀ b ∈ body, b ≠ 0#8 := by
  obtain ⟨body, hbody, hfree⟩ := stuff_zeroFree h
  exact ⟨_ :: body, by rw [encodeFrame_eq_stuff, hbody]; rfl, List.forall_mem_cons.2 ⟨stuff_dist_ne_zero h, hfree⟩⟩

/-- Bytes with their checksum behind them validate (R102). -/
theorem validate_checksum (bs : List Byte) : validate (bs ++ [checksum bs]) = true := by simp [validate]

/-! ### A run of bytes in a buffer reads part by part -/

/-- A run that reads as two parts reads as its second part behind the first. -/
theorem Memory.readBytes_right {m : Memory} {a : Nat} {bs cs : List Byte}
    (h : m.readBytes a (bs ++ cs).length = some (bs ++ cs)) : m.readBytes (a + bs.length) cs.length = some cs := by
  refine Memory.readBytes_eq_some.2 ⟨rfl, fun i hi => ?_⟩
  have := Memory.read_of_readBytes h (i := bs.length + i) (by simpa using hi)
  simpa [Nat.add_assoc] using this

/-- A run that reads as two parts reads as its first part. -/
theorem Memory.readBytes_left {m : Memory} {a : Nat} {bs cs : List Byte}
    (h : m.readBytes a (bs ++ cs).length = some (bs ++ cs)) : m.readBytes a bs.length = some bs := by
  simpa using Memory.readBytes_take h (k := bs.length) (by simp)

/-! ### Runs in which only the block moves (log entry 3) -/

/-- A run is its first part and the rest of it. -/
theorem runSteps_add {j : Nat} (k : Nat) {s t : State} (h : runSteps j s = .next t) :
    runSteps (j + k) s = runSteps k t := by
  induction j generalizing s with
  | zero => rw [runSteps, Host.Outcome.next.injEq] at h; rw [h, Nat.zero_add]
  | succ j ih =>
    rw [Nat.succ_add, runSteps]
    rw [runSteps] at h
    cases hs : step s with
    | next u => rw [hs] at h; exact ih h
    | fault f => simp [hs] at h
    | refused r => simp [hs] at h

theorem runSteps_succ {s t : State} (k : Nat) (h : step s = .next t) : runSteps (k + 1) s = runSteps k t := by
  rw [runSteps, h]

/-- The environment leaves the turn to a block with a command in progress: it has no turn of its own, or the host waits with
the next command (R13). -/
def HostWaits (s : State) : Prop :=
  (s.script = [] ∧ (s.onward = .quiet ∨ s.onward = .cycle [])) ∨ ∃ c ts, s.script = .issue c :: ts

/-- While the host waits, a step is the block's. -/
theorem HostWaits.step {s : State} (h : HostWaits s) (hb : s.busy = true) : step s = blockStep s := by
  refine step_of_blockMoves hb ?_
  obtain hnone | ⟨c, ts, hc⟩ := h
  · exact .inl ⟨State.pending_eq_none.2 hnone, rfl⟩
  · exact .inr (.inl ⟨c, _, State.pending_script hc, rfl⟩)

/-- A command takes one step to present and one to execute (log entry 3). -/
theorem runSteps_issue {s t : State} {c : Command} {i : Instr} {ts : List Turn} (hb : s.busy = false)
    (hs : s.script = .issue c :: ts) (hd : decode c = .ok i) (hw : HostWaits (s.setScript ts))
    (ht : exec i ((s.setScript ts).present c) = .next t) : runSteps 2 s = .next t := by
  have hexec : step ((s.setScript ts).present c) = .next t := by
    have hwaits : HostWaits ((s.setScript ts).present c) := hw
    rw [hwaits.step rfl, ← ht]
    exact blockStep_of_decode_ok rfl hd
  rw [runSteps_succ 1 (step_issue hb (State.pending_script hs)), runSteps_succ 0 hexec, runSteps]

/-! ### RECEIVE at a frame boundary (R93, R130) -/

/-- CMD = 0x30 is RECEIVE, whatever ARG is (R67). -/
theorem decode_recv (arg : Word) : decode ⟨0x30, arg⟩ = .ok .recv := by
  simp [decode, rsvField, funcField, widthField, decodeNoWidth]

/-- RECEIVE is in progress and the environment leaves the turn to it. -/
structure RecvRuns (s : State) : Prop where
  busy : s.busy = true
  cmd : s.cmd = 0x30
  waits : HostWaits s

theorem recvRuns_of_alone {s : State} (h : RecvRunsAlone s) : RecvRuns s := by
  obtain ⟨hb, hc, hp⟩ := h
  exact ⟨hb, hc, .inl (State.pending_eq_none.1 hp)⟩

/-- While RECEIVE runs, a step is an iteration of its loop (R130, log entry 6). -/
theorem RecvRuns.step {s : State} (h : RecvRuns s) : step s = execRecv s := by
  have hd : decode (presented s) = .ok .recv := by rw [presented, h.cmd, decode_recv]
  exact (h.waits.step h.busy).trans (blockStep_of_decode_ok h.busy hd)

/-- The state in which frame completion begins once RECEIVE has taken `body` and the terminator from TIN: they stand in RXB
from RX_IDX up, RX_LEN is the length of the frame, RX_IDX = 0 (R124, R125). -/
def received (s : State) (body rest : List Byte) : State :=
  ((s.takeByte rest (s.rxb.writeBytes s.rxIdx.toNat (body ++ [terminator]))).setRxLen
    (s.rxIdx.toNat + body.length + 1)).setRxIdx 0

/-- The first byte of a body is buffered before the others. -/
theorem received_cons {s : State} (b : Byte) (body mid rest : List Byte) (hi : s.rxIdx.toNat + 1 < 256) :
    received s (b :: body) rest =
      received ((s.takeByte mid (s.rxb.write s.rxIdx.toNat b)).setRxIdx (s.rxIdx.toNat + 1)) body rest := by
  have hidx : (BitVec.ofNat 8 (s.rxIdx.toNat + 1)).toNat = s.rxIdx.toNat + 1 := by
    rw [BitVec.toNat_ofNat, Nat.mod_eq_of_lt hi]
  simp only [received, State.setRxIdx_rxIdx, hidx, List.length_cons, ← Nat.add_assoc, Nat.add_right_comm _ _ 1]
  rfl

/-- RECEIVE takes a zero-free body and its terminator from TIN, one byte a step, and then completes the frame (R93). -/
theorem recv_takes_frame {s u : State} {st : Status} {body rest : List Byte} (hr : RecvRuns s)
    (htin : s.tin = body ++ 0#8 :: rest) (hfree : ∀ b ∈ body, b ≠ 0#8)
    (hroom : s.rxIdx.toNat + body.length < s.cfg.rxcap)
    (hf : finishFrame (s.rxIdx.toNat + body.length + 1) (received s body rest) = .ok (u, st)) :
    runSteps (body.length + 1) s = .next (completeRecv u st) := by
  induction body generalizing s with
  | nil =>
    have hstep : rxStep terminator rest s = .ok (u, some st) := by
      rw [rxStep_terminator hroom, show terminated s rest = received s [] rest from rfl]
      simp only [List.length_nil, Nat.add_zero] at hf
      rw [hf]
    rw [List.length_nil, runSteps_succ 0 (hr.step.trans (execRecv_of_frame htin hstep)), runSteps]
  | cons b body ih =>
    obtain ⟨hb, hfree⟩ := List.forall_mem_cons.1 hfree
    rw [List.length_cons] at hroom hf
    have hcap := s.cfg.rxcap_le
    set v := (s.takeByte (body ++ 0#8 :: rest) (s.rxb.write s.rxIdx.toNat b)).setRxIdx (s.rxIdx.toNat + 1)
    have hidx : v.rxIdx.toNat = s.rxIdx.toNat + 1 := toNat_cursor (by omega)
    have hstep : rxStep b (body ++ 0#8 :: rest) s = .ok (v, none) := by
      rw [rxStep_byte hb (by omega), if_pos (by omega)]
    rw [List.length_cons, runSteps_succ _ (hr.step.trans (execRecv_of_byte htin hstep))]
    refine ih ⟨hr.busy, hr.cmd, hr.waits⟩ rfl hfree ?_ ?_
    · show v.rxIdx.toNat + body.length < s.cfg.rxcap
      omega
    · rw [← hf, received_cons b body _ rest (by omega), hidx, Nat.add_right_comm _ 1, Nat.add_assoc _ body.length 1]

/-- RECEIVE runs and is at a frame boundary. -/
structure RecvBegins (s : State) : Prop extends RecvRuns s where
  boundary : s.rxIdx = 0
  noOverflow : s.rxOvf = false

/-- RECEIVE at a frame boundary will take the frame at TIN's head whole: its body has no zero and fits RXB. -/
structure FrameWaits (s : State) (body rest : List Byte) : Prop extends RecvBegins s where
  tin : s.tin = body ++ 0#8 :: rest
  zeroFree : ∀ b ∈ body, b ≠ 0#8
  fits : body.length + 1 ≤ s.cfg.rxcap

/-- The received frame decoded in place, with RX_LEN at the decoded length (R127, R128). -/
def decoded (s : State) (body rest : List Byte) : State :=
  ((received s body rest).setRxb ((received s body rest).rxb.writeBytes 0 (decodeFrame (body ++ [0#8])))).setRxLen
    (body.length - 1)

section
variable (s : State) (body rest : List Byte)

@[simp] theorem decoded_cfg : (decoded s body rest).cfg = s.cfg := by simp [decoded, received]
@[simp] theorem decoded_busy : (decoded s body rest).busy = s.busy := by simp [decoded, received]
@[simp] theorem decoded_txb : (decoded s body rest).txb = s.txb := by simp [decoded, received]
@[simp] theorem decoded_txLen : (decoded s body rest).txLen = s.txLen := by simp [decoded, received]
@[simp] theorem decoded_rxIdx : (decoded s body rest).rxIdx = 0 := by simp [decoded, received]
@[simp] theorem decoded_rxOvf : (decoded s body rest).rxOvf = s.rxOvf := by simp [decoded, received]
@[simp] theorem decoded_rxLen : (decoded s body rest).rxLen = BitVec.ofNat 8 (body.length - 1) := by simp [decoded, received]
@[simp] theorem decoded_extractPos : (decoded s body rest).extractPos = s.extractPos := by simp [decoded, received]
@[simp] theorem decoded_pktValid : (decoded s body rest).pktValid = false := by simp [decoded, received]
@[simp] theorem decoded_tin : (decoded s body rest).tin = rest := by simp [decoded, received]
@[simp] theorem decoded_tout : (decoded s body rest).tout = s.tout := by simp [decoded, received]
@[simp] theorem decoded_script : (decoded s body rest).script = s.script := by simp [decoded, received]
@[simp] theorem decoded_onward : (decoded s body rest).onward = s.onward := by simp [decoded, received]

/-- The decoded bytes stand in RXB from index 0. -/
theorem decoded_readBytes :
    (decoded s body rest).rxb.readBytes 0 (body.length - 1) = some (decodeFrame (body ++ [0#8])) := by
  have := Memory.readBytes_writeBytes (received s body rest).rxb 0 (decodeFrame (body ++ [0#8]))
  simpa [decoded] using this

end

section
variable {s : State} {body rest : List Byte}

/-- The frame that RECEIVE took is in RXB from index 0 when it began at a frame boundary. -/
theorem received_readBytes (hidx : s.rxIdx = 0) :
    (received s body rest).rxb.readBytes 0 (body.length + 1) = some (body ++ [0#8]) := by
  have := Memory.readBytes_writeBytes s.rxb 0 (body ++ [terminator])
  simpa [received, hidx, terminator] using this

/-- RECEIVE completes with the outcome of the frame it took (R130). -/
theorem FrameWaits.completes {u : State} {st : Status} (h : FrameWaits s body rest)
    (hf : finishFrame (body.length + 1) (received s body rest) = .ok (u, st)) :
    runSteps (body.length + 1) s = .next (completeRecv u st) := by
  have hzero : s.rxIdx.toNat = 0 := by rw [h.boundary]; rfl
  have hfits := h.fits
  exact recv_takes_frame h.toRecvRuns h.tin h.zeroFree (by omega) (by rwa [hzero, Nat.zero_add])

/-- RECEIVE of a runt frame (R126). -/
theorem FrameWaits.runt (h : FrameWaits s body rest) (hl : body.length + 1 < 3) :
    runSteps (body.length + 1) s = .next ((received s body rest).respond .checksumInvalid 0) :=
  h.completes (finishFrame_runt h.noOverflow hl)

/-- RECEIVE of a frame whose checksum fails (R128). -/
theorem FrameWaits.invalid (h : FrameWaits s body rest) (hl : 3 ≤ body.length + 1)
    (hv : validate (decodeFrame (body ++ [0#8])) = false) :
    runSteps (body.length + 1) s = .next ((decoded s body rest).respond .checksumInvalid 0) := by
  refine h.completes (st := .checksumInvalid) ?_
  rw [finishFrame_decoded (s := received s body rest) h.noOverflow hl h.fits (received_readBytes h.boundary), hv]
  rfl

/-- RECEIVE of a frame whose checksum holds (R129). -/
theorem FrameWaits.delivered (h : FrameWaits s body rest) (hl : 3 ≤ body.length + 1)
    (hv : validate (decodeFrame (body ++ [0#8])) = true) :
    runSteps (body.length + 1) s =
      .next (((decoded s body rest).deliver (body.length - 2)).respond .delivered (BitVec.ofNat 32 (body.length - 2))) := by
  have hcap := s.cfg.rxcap_le
  have hfits := h.fits
  have hresult : (BitVec.ofNat 8 (body.length - 2)).setWidth 32 = BitVec.ofNat 32 (body.length - 2) :=
    BitVec.setWidth_ofNat_of_le_of_lt (by decide) (by omega)
  rw [← hresult]
  refine h.completes (st := .delivered) ?_
  rw [finishFrame_decoded (s := received s body rest) h.noOverflow hl h.fits (received_readBytes h.boundary), hv]
  rfl

end

/-- A state that has the send side of `s` is not changed by taking it from `s`. -/
theorem withSendState_eq_self {s t : State} (hb : t.txb = s.txb) (hl : t.txLen = s.txLen) (ho : t.tout = s.tout) :
    withSendState t s = t := by
  rw [withSendState, ← hb, ← hl, ← ho]

/-- Settles O35: the body is buffered byte by byte, and the terminator completes the frame in one of three ways. -/
theorem recvProcessesExactlyOneFrame : Obligations.RecvProcessesExactlyOneFrame := by
  intro s body rest hruns hidx hovf htin hfree hfits
  have h : FrameWaits s body rest := ⟨⟨recvRuns_of_alone hruns, hidx, hovf⟩, htin, hfree, hfits⟩
  by_cases hl : body.length + 1 < 3
  · exact ⟨_, h.runt hl, rfl, rfl, rfl, hovf, withSendState_eq_self rfl rfl rfl,
      fun _ => ⟨rfl, rfl, rfl, rfl, by simp [received, hidx]⟩, by omega, by omega, by omega⟩
  · have hl : 3 ≤ body.length + 1 := by omega
    have hread := decoded_readBytes s body rest
    cases hv : validate (decodeFrame (body ++ [0#8])) with
    | false =>
      exact ⟨_, h.invalid hl hv, by simp, rfl, by simp, by simpa using hovf,
        withSendState_eq_self (by simp) (by simp) (by simp), by omega, fun _ => hread,
        fun _ _ => by simp [Status.code], by simp [hv]⟩
    | true =>
      exact ⟨_, h.delivered hl hv, by simp, rfl, by simp, by simpa using hovf,
        withSendState_eq_self (by simp) (by simp) (by simp), by omega, fun _ => hread, by simp [hv],
        fun _ _ => by simp [Status.code]⟩

/-! ### The fields of a delivered packet (R136) -/

/-- An image reversed by the sender and by the receiver is the image when their REVs agree, and its reverse when they do not
(R111). -/
theorem reverseField_reverseField_argImage (r r' : Bool) (w : Width) (v : Word) :
    reverseField r' w (reverseField r w (argImage w v)) = if r = r' then argImage w v else (argImage w v).reverse := by
  cases w with
  | w1 => simp [reverseField, argImage]
  | w2 => cases r <;> cases r' <;> simp [reverseField]
  | w4 => cases r <;> cases r' <;> simp [reverseField]

theorem payloadOf_cons (rev : Bool) (f : TypedField) (fs : List TypedField) :
    payloadOf rev (f :: fs) = reverseField rev f.1 (argImage f.1 f.2) ++ payloadOf rev fs := List.flatMap_cons

/-- The command that extracts a field is decoded to that extraction (R67). -/
theorem decode_extract (w : Width) : decode (encode (extractFieldInstr w)) = .ok (extractFieldInstr w) := by
  cases w with
  | w1 => exact Laws.RoundTrip.extf1
  | w2 => exact Laws.RoundTrip.extf2
  | w4 => exact Laws.RoundTrip.extf4

theorem exec_extract (w : Width) (s : State) : exec (extractFieldInstr w) s = extractField w s := by cases w <;> rfl

/-- Between commands, a delivered packet in RXB whose bytes from EXTRACT_POS on are those of the fields `fs` as a sender with
strap `rev` appended them, and a host that will extract just these. -/
structure Unread (rev : Bool) (fs : List TypedField) (s : State) : Prop where
  idle : s.busy = false
  packet : s.pktValid = true
  length : s.extractPos.toNat + (payloadOf rev fs).length = s.rxLen.toNat
  fits : s.rxLen.toNat ≤ s.cfg.rxcap
  bytes : s.rxb.readBytes s.extractPos.toNat (payloadOf rev fs).length = some (payloadOf rev fs)
  script : s.script = fs.map extractTurn
  onward : s.onward = .quiet

/-- While a host has only extractions to come, it waits or has no turn. -/
theorem HostWaits.of_extracts {s : State} {fs : List TypedField} (hs : s.script = fs.map extractTurn)
    (ho : s.onward = .quiet) : HostWaits s := by
  cases fs with
  | nil => exact .inl ⟨hs, .inl ho⟩
  | cons f fs => exact .inr ⟨_, _, hs⟩

/-- Extracting the next field returns its image through both reversers and leaves the other fields to be extracted. -/
theorem Unread.extract {rev : Bool} {f : TypedField} {fs : List TypedField} {s : State} (h : Unread rev (f :: fs) s) :
    ∃ t, runSteps 2 s = .next t ∧ Unread rev fs t ∧ t.cfg = s.cfg ∧ t.status = 0#4 ∧
      t.result = ofLanes (reverseField s.cfg.rev f.1 (reverseField rev f.1 (argImage f.1 f.2))) := by
  obtain ⟨hidle, hpacket, hlength, hfits, hbytes, hscript, honward⟩ := h
  have himage : (reverseField rev f.1 (argImage f.1 f.2)).length = widthBytes f.1 := by simp
  have hcap := s.cfg.rxcap_le
  rw [payloadOf_cons] at hlength hbytes
  have hfirst := Memory.readBytes_left hbytes
  have hrest := Memory.readBytes_right hbytes
  rw [List.length_append] at hlength
  rw [himage] at hfirst hrest hlength
  have hpos : (BitVec.ofNat 8 (s.extractPos.toNat + widthBytes f.1)).toNat = s.extractPos.toNat + widthBytes f.1 :=
    toNat_cursor (by omega)
  have hexec := extractField_field (w := f.1)
    (s := (s.setScript (fs.map extractTurn)).present (encode (extractFieldInstr f.1))) hpacket
    (show s.extractPos.toNat + widthBytes f.1 ≤ s.rxLen.toNat by omega) hfits hfirst
  rw [← exec_extract] at hexec
  refine ⟨_, runSteps_issue hidle hscript (decode_extract f.1) (.of_extracts rfl honward) hexec, ?_, rfl, rfl, rfl⟩
  exact
    { idle := rfl
      packet := hpacket
      length := by
        show (BitVec.ofNat 8 (s.extractPos.toNat + widthBytes f.1)).toNat + _ = s.rxLen.toNat
        omega
      fits := hfits
      bytes := by simpa [hpos] using hrest
      script := rfl
      onward := honward }

/-- Extracting fields one after another: the answer to the one behind `before`. -/
theorem Unread.extract_at {rev : Bool} {before after : List TypedField} {f : TypedField} {s : State}
    (h : Unread rev (before ++ f :: after) s) :
    ∃ t, runSteps (2 * (before.length + 1)) s = .next t ∧ t.status = 0#4 ∧ t.busy = false ∧
      t.result = if rev = s.cfg.rev then ofLanes (argImage f.1 f.2) else ofLanes (argImage f.1 f.2).reverse := by
  induction before generalizing s with
  | nil =>
    obtain ⟨t, hrun, ht, -, hstatus, hresult⟩ := h.extract
    refine ⟨t, hrun, hstatus, ht.idle, ?_⟩
    rw [hresult, reverseField_reverseField_argImage, apply_ite ofLanes]
  | cons g before ih =>
    obtain ⟨u, hrun, hu, hcfg, -⟩ := h.extract
    obtain ⟨t, hrun', ht⟩ := ih hu
    rw [hcfg] at ht
    refine ⟨t, ?_, ht⟩
    rw [List.length_cons, Nat.mul_succ, Nat.add_comm, runSteps_add _ hrun, hrun']

/-- A frame that Encode made and RXB has room for is one that RECEIVE takes whole, and Decode returns its bytes. -/
theorem RecvBegins.frameWaits {s : State} {raw rest : List Byte} (h : RecvBegins s)
    (htin : s.tin = encodeFrame raw ++ rest) (hfits : raw.length + 2 ≤ s.cfg.rxcap) :
    ∃ body, FrameWaits s body rest ∧ body.length = raw.length + 1 ∧ decodeFrame (body ++ [0#8]) = raw := by
  have hcap := s.cfg.rxcap_le
  have hlen : raw.length ≤ 254 := by omega
  obtain ⟨body, hbody, hfree⟩ := encodeFrame_zeroFree hlen
  have hbodyLen : body.length = raw.length + 1 := by simpa using (congrArg List.length hbody).symm
  refine ⟨body, ⟨h, ?_, hfree, by omega⟩, hbodyLen, ?_⟩
  · rw [htin, hbody, List.append_assoc]
    rfl
  · exact (congrArg decodeFrame hbody).symm.trans (decodeFrame_encodeFrame hlen)

/-- The frame of some fields, taken by RECEIVE, is delivered, and its fields are to be extracted. -/
theorem RecvBegins.delivers_fields {s : State} {rev : Bool} {fs : List TypedField} {p rest : List Byte}
    (h : RecvBegins s) (hp : payloadOf rev fs = p) (hroom : p.length + 3 ≤ s.cfg.rxcap)
    (htin : s.tin = encodeFrame (p ++ [checksum p]) ++ rest) (hscript : s.script = fs.map extractTurn)
    (honward : s.onward = .quiet) :
    ∃ t, runSteps (p.length + 3) s = .next t ∧ Unread rev fs t ∧ t.cfg = s.cfg ∧ t.status = 4#4 ∧
      t.rxLen.toNat = p.length ∧ t.tin = rest := by
  obtain ⟨body, hframe, hbodyLen, hraw⟩ := h.frameWaits htin (by simpa using hroom)
  rw [List.length_append, List.length_singleton] at hbodyLen
  have hcap := s.cfg.rxcap_le
  have hcursor : (BitVec.ofNat 8 p.length).toNat = p.length := toNat_cursor (by omega)
  have hrun := hframe.delivered (by omega) (hraw ▸ validate_checksum p)
  rw [hbodyLen, show p.length + 1 + 1 - 2 = p.length from rfl] at hrun
  have hread := decoded_readBytes s body rest
  rw [hraw, hbodyLen, show p.length + 1 + 1 - 1 = (p ++ [checksum p]).length by simp] at hread
  refine ⟨_, hrun, ?_, by simp, rfl, hcursor, by simp⟩
  exact
    { idle := rfl
      packet := rfl
      length := by simp [hp, hcursor]
      fits := by simpa [hcursor] using by omega
      bytes := by simpa [hp] using Memory.readBytes_left hread
      script := by simpa using hscript
      onward := by simpa using honward }

/-- Settles O42: RECEIVE delivers the frame, and each extraction finds the next field. -/
theorem fieldsSurviveTheWire : Obligations.FieldsSurviveTheWire := by
  intro r senderRev fs rest p hidle hidx hovf hroom htin hscript honward
  have hbegins : RecvBegins ((r.setScript (fs.map extractTurn)).present (encode .recv)) :=
    ⟨⟨rfl, rfl, .of_extracts rfl honward⟩, hidx, hovf⟩
  obtain ⟨t, hreceive, ht, hcfg, hstatus, hlen, htail⟩ := hbegins.delivers_fields rfl hroom htin rfl honward
  have hrun : runSteps (p.length + 4) r = .next t :=
    (runSteps_succ _ (step_issue hidle (State.pending_script hscript))).trans hreceive
  refine ⟨⟨t, hrun, hstatus, hlen, htail, ht.packet, ht.idle⟩, fun before after f hfs => ?_⟩
  have hrev : t.cfg.rev = r.cfg.rev := congrArg Config.rev hcfg
  rw [runSteps_add _ hrun, ← hrev]
  exact Unread.extract_at (hfs ▸ ht)

end Sys2Proof.Machine

/-! PROOFS. The statements of spec/30_encoding.md: the decoder as an equation per value of FUNC, what it accepts and rejects,
the ARG bits that a command does not read, and the operands that the assembler accepts. -/

namespace Sys2Proof

/-! ### The width code and the two commands that carry one (R64, R68) -/

/-- The code of a width, the table of R64 read backwards. -/
def widthCode : Width → BitVec 2
  | .w1 => 0b00#2
  | .w2 => 0b01#2
  | .w4 => 0b10#2

/-- A width is read from its own code only (R64). -/
theorem widthOfCode_eq_some :
    ∀ (x : Width) (w : BitVec 2), widthOfCode w = some x ↔ w = widthCode x
  | .w1 => by decide
  | .w2 => by decide
  | .w4 => by decide

theorem decodeAddField_eq_ok {arg : Word} {w : BitVec 2} {i : Instr} :
    decodeAddField arg w = .ok i ↔ ∃ x, w = widthCode x ∧ i = addFieldInstr arg x := by
  simp only [← widthOfCode_eq_some, decodeAddField]
  cases widthOfCode w <;> simp [eq_comm]

theorem decodeExtractField_eq_ok {w : BitVec 2} {i : Instr} :
    decodeExtractField w = .ok i ↔ ∃ x, w = widthCode x ∧ i = extractFieldInstr x := by
  simp only [← widthOfCode_eq_some, decodeExtractField]
  cases widthOfCode w <;> simp [eq_comm]

theorem decodeNoWidth_eq_ok {i j : Instr} {w : BitVec 2} : decodeNoWidth j w = .ok i ↔ w = 0#2 ∧ i = j := by
  unfold decodeNoWidth
  split <;> simp [*, eq_comm]

/-- ADD_FIELD is rejected for the reserved width code alone (R64). -/
theorem decodeAddField_eq_error {arg : Word} {w : BitVec 2} {e : DecodeError} :
    decodeAddField arg w = .error e ↔ w = 3#2 ∧ e = .reservedWidth := by
  rw [← widthOfCode_eq_none, decodeAddField]
  cases widthOfCode w <;> simp [eq_comm]

/-- EXTRACT_FIELD is rejected for the reserved width code alone (R64). -/
theorem decodeExtractField_eq_error {w : BitVec 2} {e : DecodeError} :
    decodeExtractField w = .error e ↔ w = 3#2 ∧ e = .reservedWidth := by
  rw [← widthOfCode_eq_none, decodeExtractField]
  cases widthOfCode w <;> simp [eq_comm]

/-- A command without a width is rejected for a width code other than 0 alone (R68). -/
theorem decodeNoWidth_eq_error {j : Instr} {w : BitVec 2} {e : DecodeError} :
    decodeNoWidth j w = .error e ↔ w ≠ 0#2 ∧ e = .reservedWidth := by
  unfold decodeNoWidth
  split <;> simp [*, eq_comm]

/-! ### The decoder, an equation per value of FUNC (R65, R68) -/

/-- The values of FUNC: the two with a width, the three without one, and the reserved ones (R65). -/
theorem funcField_cases : ∀ f : BitVec 4,
    f = 1#4 ∨ f = 4#4 ∨ f = 2#4 ∨ f = 3#4 ∨ f = 5#4 ∨ (f = 0#4 ∨ 6#4 ≤ f) := by decide

/-- A reserved value of FUNC is no command's (R65). -/
theorem funcField_ne_of_reserved : ∀ f : BitVec 4, f = 0#4 ∨ 6#4 ≤ f → f ≠ 1#4 ∧ f ≠ 4#4 ∧ f ≠ 2#4 ∧ f ≠ 3#4 ∧ f ≠ 5#4 := by
  decide

section
variable {cmd : Byte} {arg : Word}

theorem decode_of_rsv_ne (hr : rsvField cmd ≠ 0#2) : decode ⟨cmd, arg⟩ = .error .reservedBits := by
  simp [decode, hr]

theorem decode_func_add (hr : rsvField cmd = 0#2) (hf : funcField cmd = 1#4) :
    decode ⟨cmd, arg⟩ = decodeAddField arg (widthField cmd) := by
  simp [decode, hr, hf]

theorem decode_func_extract (hr : rsvField cmd = 0#2) (hf : funcField cmd = 4#4) :
    decode ⟨cmd, arg⟩ = decodeExtractField (widthField cmd) := by
  simp [decode, hr, hf]

theorem decode_func_send (hr : rsvField cmd = 0#2) (hf : funcField cmd = 2#4) :
    decode ⟨cmd, arg⟩ = decodeNoWidth .send (widthField cmd) := by
  simp [decode, hr, hf]

theorem decode_func_receive (hr : rsvField cmd = 0#2) (hf : funcField cmd = 3#4) :
    decode ⟨cmd, arg⟩ = decodeNoWidth .recv (widthField cmd) := by
  simp [decode, hr, hf]

theorem decode_func_readReg (hr : rsvField cmd = 0#2) (hf : funcField cmd = 5#4) :
    decode ⟨cmd, arg⟩ = decodeNoWidth (.rdreg arg) (widthField cmd) := by
  simp [decode, hr, hf]

theorem decode_func_reserved (hr : rsvField cmd = 0#2) (hf : funcField cmd = 0#4 ∨ 6#4 ≤ funcField cmd) :
    decode ⟨cmd, arg⟩ = .error .reservedFunc := by
  simp [decode, hr, funcField_ne_of_reserved _ hf]

end

/-! ### What the decoder accepts (R67) -/

/-- What decodes to an instruction has its CMD and the ARG it reads. -/
theorem encode_of_decode_eq_ok {c : Command} {i : Instr} (h : decode c = .ok i) :
    c.cmd = (encode i).cmd ∧ (i.readsArg = true → c.arg = (encode i).arg) := by
  obtain ⟨cmd, arg⟩ := c
  by_cases hr : rsvField cmd = 0#2
  · obtain hf | hf | hf | hf | hf | hf := funcField_cases (funcField cmd)
    · rw [decode_func_add hr hf, decodeAddField_eq_ok] at h
      obtain ⟨x, hw, rfl⟩ := h
      cases x with
      | w1 => exact ⟨(cmd_eq_iff _ 0x10).2 ⟨hf, hr, hw⟩, fun _ => rfl⟩
      | w2 => exact ⟨(cmd_eq_iff _ 0x11).2 ⟨hf, hr, hw⟩, fun _ => rfl⟩
      | w4 => exact ⟨(cmd_eq_iff _ 0x12).2 ⟨hf, hr, hw⟩, fun _ => rfl⟩
    · rw [decode_func_extract hr hf, decodeExtractField_eq_ok] at h
      obtain ⟨x, hw, rfl⟩ := h
      cases x with
      | w1 => exact ⟨(cmd_eq_iff _ 0x40).2 ⟨hf, hr, hw⟩, nofun⟩
      | w2 => exact ⟨(cmd_eq_iff _ 0x41).2 ⟨hf, hr, hw⟩, nofun⟩
      | w4 => exact ⟨(cmd_eq_iff _ 0x42).2 ⟨hf, hr, hw⟩, nofun⟩
    · rw [decode_func_send hr hf, decodeNoWidth_eq_ok] at h
      obtain ⟨hw, rfl⟩ := h
      exact ⟨(cmd_eq_iff _ 0x20).2 ⟨hf, hr, hw⟩, nofun⟩
    · rw [decode_func_receive hr hf, decodeNoWidth_eq_ok] at h
      obtain ⟨hw, rfl⟩ := h
      exact ⟨(cmd_eq_iff _ 0x30).2 ⟨hf, hr, hw⟩, nofun⟩
    · rw [decode_func_readReg hr hf, decodeNoWidth_eq_ok] at h
      obtain ⟨hw, rfl⟩ := h
      exact ⟨(cmd_eq_iff _ 0x50).2 ⟨hf, hr, hw⟩, fun _ => rfl⟩
    · simp [decode_func_reserved hr hf] at h
  · simp [decode_of_rsv_ne hr] at h

/-- Decoding undoes encoding. -/
theorem decode_encode : ∀ i : Instr, decode (encode i) = .ok i
  | .addf1 arg => Laws.RoundTrip.addf1 arg
  | .addf2 arg => Laws.RoundTrip.addf2 arg
  | .addf4 arg => Laws.RoundTrip.addf4 arg
  | .send => Laws.RoundTrip.send
  | .recv => Laws.RoundTrip.recv
  | .extf1 => Laws.RoundTrip.extf1
  | .extf2 => Laws.RoundTrip.extf2
  | .extf4 => Laws.RoundTrip.extf4
  | .rdreg arg => Laws.RoundTrip.rdreg arg

/-- The CMD of an instruction that does not read ARG decodes to it, whatever ARG is (R66, R67). -/
theorem decode_of_not_readsArg {i : Instr} (hi : i.readsArg = false) (arg : Word) :
    decode ⟨(encode i).cmd, arg⟩ = .ok i := by
  cases i with
  | send => exact decode_func_send rfl rfl
  | recv => exact decode_func_receive rfl rfl
  | extf1 => exact decode_func_extract rfl rfl
  | extf2 => exact decode_func_extract rfl rfl
  | extf4 => exact decode_func_extract rfl rfl
  | addf1 _ | addf2 _ | addf4 _ | rdreg _ => simp [Instr.readsArg] at hi

/-- Settles O1: forwards by the value of FUNC; backwards ARG is the encoding's or is not read. -/
theorem decodeUndoesEncode : Obligations.DecodeUndoesEncode := by
  intro c i
  refine ⟨encode_of_decode_eq_ok, fun ⟨hcmd, harg⟩ => ?_⟩
  obtain ⟨cmd, arg⟩ := c
  obtain rfl : cmd = (encode i).cmd := hcmd
  cases hi : i.readsArg with
  | false => exact decode_of_not_readsArg hi arg
  | true =>
    obtain rfl : arg = (encode i).arg := harg hi
    exact decode_encode i

/-- Settles O3: each value of FUNC is rejected for at most one reason. -/
theorem rejectionNamesTheField : Obligations.RejectionNamesTheField := by
  intro cmd arg
  change (_ ↔ rsvField cmd ≠ _) ∧ (_ ↔ rsvField cmd = _ ∧ (funcField cmd = _ ∨ _ ≤ funcField cmd)) ∧
    (_ ↔ rsvField cmd = _ ∧ (funcField cmd ∈ _ ∧ widthField cmd = _ ∨ funcField cmd ∈ _ ∧ widthField cmd ≠ _))
  by_cases hr : rsvField cmd = 0#2
  · obtain hf | hf | hf | hf | hf | hf := funcField_cases (funcField cmd)
    · simp [decode_func_add hr hf, decodeAddField_eq_error, hr, hf]
    · simp [decode_func_extract hr hf, decodeExtractField_eq_error, hr, hf]
    · simp [decode_func_send hr hf, decodeNoWidth_eq_error, hr, hf]
    · simp [decode_func_receive hr hf, decodeNoWidth_eq_error, hr, hf]
    · simp [decode_func_readReg hr hf, decodeNoWidth_eq_error, hr, hf]
    · have := funcField_ne_of_reserved _ hf
      simp [decode_func_reserved hr hf, hr, hf, this]
  · simp [decode_of_rsv_ne hr, hr]

end Sys2Proof

namespace Sys2Proof.Machine

/-! ### The nine legal commands and the illegal ones (R67, R145) -/

/-- The legal commands as a list, read off `decodeUndoesEncode` (R67). -/
theorem decode_eq_ok_iff_mem {cmd : Byte} {arg : Word} {i : Instr} :
    decode ⟨cmd, arg⟩ = .ok i ↔
      (cmd, i) ∈ ([(0x10, .addf1 arg), (0x11, .addf2 arg), (0x12, .addf4 arg), (0x20, .send), (0x30, .recv),
        (0x40, .extf1), (0x41, .extf2), (0x42, .extf4), (0x50, .rdreg arg)] : List (Byte × Instr)) := by
  rw [decodeUndoesEncode ⟨cmd, arg⟩ i]
  cases i with
  | addf1 a | addf2 a | addf4 a | rdreg a => simp [encode, Instr.readsArg, eq_comm (a := a)]
  | send | recv | extf1 | extf2 | extf4 => simp [encode, Instr.readsArg]

/-- A CMD outside the list is rejected, whatever ARG is (R67). -/
theorem decode_eq_error_of_notMem {cmd : Byte} (arg : Word)
    (h : cmd ∉ ([0x10, 0x11, 0x12, 0x20, 0x30, 0x40, 0x41, 0x42, 0x50] : List Byte)) :
    ∃ e, decode ⟨cmd, arg⟩ = .error e := by
  cases hd : decode ⟨cmd, arg⟩ with
  | error e => exact ⟨e, rfl⟩
  | ok i => exact absurd (List.mem_map_of_mem (f := Prod.fst) (decode_eq_ok_iff_mem.1 hd)) h

/-- RDREG's register number is ARG[7:0] (R66, R137). -/
theorem regNumber_eq (arg : Word) : regNumber arg = arg.toNat % 256 := by
  simp [regNumber, lane]

/-- ADD_FIELD does not raise ILLEGAL_COMMAND (R113). -/
theorem addField_status_ne {w : Width} {arg : Word} {s t : State} (h : addField w arg s = .next t) : t.status ≠ 8#4 := by
  obtain ⟨-, rfl⟩ | ⟨-, rfl⟩ := addField_cases h <;> simp [Status.code]

/-- EXTRACT_FIELD does not raise ILLEGAL_COMMAND (R132). -/
theorem extractField_status_ne {w : Width} {s t : State} (h : extractField w s = .next t) : t.status ≠ 8#4 := by
  obtain ⟨-, rfl⟩ | ⟨-, -, rfl⟩ | ⟨-, -, bs, -, rfl⟩ := extractField_cases h <;> simp [Status.code]

/-- SEND does not raise ILLEGAL_COMMAND (R117). -/
theorem execSend_status_ne {s t : State} (h : execSend s = .next t) : t.status ≠ 8#4 := by
  obtain ⟨-, rfl⟩ | ⟨-, fields, -, rfl⟩ := execSend_cases h <;> simp [Status.code]

/-- RECEIVE does not complete with ILLEGAL_COMMAND (R130). -/
theorem execRecv_status_ne {s t : State} (hbusy : s.busy = true) (h : execRecv s = .next t) (hdone : t.busy = false) :
    t.status ≠ 8#4 := by
  obtain ⟨-, rfl⟩ | ⟨b, rest, -, hr⟩ | ⟨b, rest, u, st, -, hr, rfl⟩ := execRecv_cases h
  · simp [Status.code]
  · obtain ⟨-, hstays, -⟩ := rxStep_context hr
    simp [hstays rfl, hbusy] at hdone
  · obtain ⟨-, -, hlow⟩ := rxStep_context hr
    intro hst
    rw [completeRecv_eq, State.respond_status] at hst
    exact absurd (hlow st rfl) (by simp [hst])

/-- RDREG raises ILLEGAL_COMMAND only for an unassigned register number (R28, R137). -/
theorem regNumber_of_execRdreg_illegal {arg : Word} {s t : State} (h : execRdreg arg s = .next t)
    (hst : t.status = 8#4) : 5 < arg.toNat % 256 := by
  obtain ⟨v, -, rfl⟩ | ⟨hnone, -⟩ := execRdreg_cases h
  · simp [Status.code] at hst
  · have hunassigned := regValue_isSome s (regNumber arg)
    rw [hnone, Option.isSome_none, eq_comm, decide_eq_false_iff_not, regNumber_eq] at hunassigned
    omega

/-- Settles O2: the list, its complement, and RDREG as the one command that raises ILLEGAL_COMMAND. -/
theorem onlyNineCommandsAreLegal : Obligations.OnlyNineCommandsAreLegal := by
  refine ⟨fun _ _ _ => decode_eq_ok_iff_mem, fun s hcmd hbusy => ?_, fun i s t hbusy h hdone hst => ?_⟩
  · obtain ⟨e, he⟩ := decode_eq_error_of_notMem s.arg hcmd
    exact blockStep_of_decode_error hbusy he
  · cases i with
    | addf1 _ | addf2 _ | addf4 _ => exact absurd hst (addField_status_ne h)
    | send => exact absurd hst (execSend_status_ne h)
    | recv => exact absurd hst (execRecv_status_ne hbusy h hdone)
    | extf1 | extf2 | extf4 => exact absurd hst (extractField_status_ne h)
    | rdreg arg => exact ⟨arg, rfl, regNumber_of_execRdreg_illegal h hst⟩

/-! ### The ARG bits that a command does not read (R66) -/

/-- ADD_FIELD reads ARG through its image only (R66, R113). -/
theorem addField_congr_arg {w : Width} {a b : Word} (s : State) (h : argImage w a = argImage w b) :
    addField w a s = addField w b s := by
  simp only [addField, h]

/-- Two ARG words with the same ARG[15:0] have the same image of width 2 (R66). -/
theorem argImage_w2_congr {a b : Word} (h : a.extractLsb' 0 16 = b.extractLsb' 0 16) :
    argImage .w2 a = argImage .w2 b := by
  have hlane (k : Nat) (hk : 8 * k + 8 ≤ 16) (v : Word) : lane v k = (v.extractLsb' 0 16).extractLsb' (8 * k) 8 := by
    rw [lane, BitVec.extractLsb'_extractLsb'_of_le hk]
  simp [argImage, hlane, h]

/-- RDREG reads ARG through its register number only (R66, R137). -/
theorem execRdreg_congr_arg {a b : Word} (s : State) (h : regNumber a = regNumber b) :
    execRdreg a s = execRdreg b s := by
  simp only [execRdreg, h]

/-- Decoding an instruction that does not read ARG does not depend on ARG (R66). -/
theorem decode_congr_arg {i : Instr} (hi : i.readsArg = false) (a b : Word) :
    decode ⟨(encode i).cmd, a⟩ = decode ⟨(encode i).cmd, b⟩ :=
  (decode_of_not_readsArg hi a).trans (decode_of_not_readsArg hi b).symm

/-- Settles O28: each meaning reads ARG through its lanes, and the five other commands drop it when they decode. -/
theorem unreadArgumentBitsAreIgnored : Obligations.UnreadArgumentBitsAreIgnored := by
  intro a b s
  refine ⟨fun h => ?_, fun h => ?_, fun h => ?_, fun cmd hcmd => ?_⟩
  · exact addField_congr_arg s (congrArg (fun l => [l]) h)
  · exact addField_congr_arg s (argImage_w2_congr h)
  · exact execRdreg_congr_arg s (congrArg BitVec.toNat h)
  · simp only [List.mem_cons, List.not_mem_nil, or_false] at hcmd
    obtain rfl | rfl | rfl | rfl | rfl := hcmd
    · exact decode_congr_arg (i := .send) rfl a b
    · exact decode_congr_arg (i := .recv) rfl a b
    · exact decode_congr_arg (i := .extf1) rfl a b
    · exact decode_congr_arg (i := .extf2) rfl a b
    · exact decode_congr_arg (i := .extf4) rfl a b

/-- Settles O4: the decoder evaluated on each of the words. -/
theorem tableWordsDecode : Obligations.TableWordsDecode := by
  unfold Obligations.TableWordsDecode
  decide

/-! ### The operands that the assembler accepts (R71, R72) -/

/-- A number below 2^32 is the value of its ARG word. -/
theorem toNat_ofInt_word {v : Int} (h0 : 0 ≤ v) (h : v < 2 ^ 32) : ((BitVec.ofInt 32 v).toNat : Int) = v := by
  rw [BitVec.toNat_ofInt]
  omega

/-- A field has at most the bits of ARG, and its signed half is within its unsigned range (R64). -/
theorem two_pow_bits_le (w : Width) :
    (2 : Int) ^ (8 * widthBytes w) ≤ 2 ^ 32 ∧ (2 : Int) ^ (8 * widthBytes w - 1) ≤ 2 ^ (8 * widthBytes w) := by
  cases w <;> decide

/-- A literal from 0 up is its own ARG word (R71). -/
theorem operandWord_unsigned {n : Nat} {v : Int} (h0 : 0 ≤ v) (h : v ≤ 2 ^ (8 * n) - 1) :
    operandWord n v = some (BitVec.ofInt 32 v) :=
  if_pos ⟨h0, h⟩

/-- A negative literal has the ARG word of its two's complement (R71). -/
theorem operandWord_signed {n : Nat} {v : Int} (h : -(2 ^ (8 * n - 1)) ≤ v) (h1 : v ≤ -1) :
    operandWord n v = some (BitVec.ofInt 32 (v + 2 ^ (8 * n))) :=
  (if_neg (by omega)).trans (if_pos ⟨h, h1⟩)

/-- A literal outside both ranges has no ARG word (R71). -/
theorem operandWord_outside {n : Nat} {v : Int} (h : v < -(2 ^ (8 * n - 1)) ∨ 2 ^ (8 * n) ≤ v) :
    operandWord n v = none := by
  have : (0 : Int) < 2 ^ (8 * n) := by positivity
  have : (0 : Int) < 2 ^ (8 * n - 1) := by positivity
  exact (if_neg (by omega)).trans (if_neg (by omega))

/-- Settles O58: the ARG word of each range, and its value below 2^32. -/
theorem assemblerOperandRange : Obligations.AssemblerOperandRange := by
  intro w v n
  obtain ⟨hword, hhalf⟩ : (2 : Int) ^ (8 * n) ≤ 2 ^ 32 ∧ (2 : Int) ^ (8 * n - 1) ≤ 2 ^ (8 * n) := two_pow_bits_le w
  refine ⟨fun h0 h => ?_, fun h h1 => ?_, operandWord_outside⟩
  · exact ⟨_, operandWord_unsigned h0 h, toNat_ofInt_word h0 (by omega)⟩
  · exact ⟨_, operandWord_signed h h1, toNat_ofInt_word (by omega) (by omega)⟩

/-- The ARG word of an operand has no bit above the field's width (R71). -/
theorem toNat_lt_of_operandWord {w : Width} {v : Int} {a : Word} (h : operandWord (widthBytes w) v = some a) :
    a.toNat < 2 ^ (8 * widthBytes w) := by
  obtain ⟨hunsigned, hsigned, houtside⟩ := assemblerOperandRange w v
  have hin : ¬ (v < -(2 ^ (8 * widthBytes w - 1)) ∨ 2 ^ (8 * widthBytes w) ≤ v) := fun hv => by
    simp [houtside hv] at h
  zify
  by_cases h0 : 0 ≤ v
  · obtain ⟨_, ha, hvalue⟩ := hunsigned h0 (by omega)
    obtain rfl := Option.some.inj (ha.symm.trans h)
    omega
  · obtain ⟨_, ha, hvalue⟩ := hsigned (by omega) (by omega)
    obtain rfl := Option.some.inj (ha.symm.trans h)
    omega

/-- The named registers are 0 to 5 (R28, R72). -/
theorem registerName_le {w : List Char} {r : Nat} (h : registerName w = some r) : r ≤ 5 := by
  unfold registerName at h
  split_ifs at h <;> cases h <;> decide

/-- A register's name or number is at most 255 (R72). -/
theorem registerOperand_le {w : List Char} {r : Nat} (h : registerOperand w = some r) : r ≤ 255 := by
  unfold registerOperand at h
  split at h
  · next hname =>
    obtain rfl := Option.some.inj h
    exact (registerName_le hname).trans (by decide)
  · split at h
    · next n _ =>
      obtain ⟨hle, hn⟩ := Option.ite_none_right_eq_some.1 h
      exact Option.some.inj hn ▸ hle
    · simp at h

/-- A command without an operand has no ARG bit to be unread (R70). -/
theorem wf_of_assembleBare {m : List Char} {i : Instr} (h : assembleBare m = .command i) : i.wf = true := by
  unfold assembleBare at h
  split_ifs at h <;> cases h <;> rfl

/-- An assembled ADDFn carries the ARG word of an operand in range (R71). -/
theorem assembleAdd_eq_command {n : Nat} {make : Word → Instr} {operand : List Char} {i : Instr}
    (h : assembleAdd n make operand = .command i) : ∃ v arg, operandWord n v = some arg ∧ i = make arg := by
  unfold assembleAdd at h
  split at h
  · simp at h
  · next v _ =>
    split at h
    · next arg harg => exact ⟨v, arg, harg, by simpa using h.symm⟩
    · simp at h

/-- An assembled RDREG carries a register number below 256 (R72). -/
theorem wf_rdreg {r : Nat} (h : r ≤ 255) : (Instr.rdreg (BitVec.ofNat 32 r)).wf = true := by
  refine decide_eq_true ?_
  rw [BitVec.toNat_ofNat]
  omega

/-- The commands with one operand are well-formed (R70 to R72). -/
theorem wf_of_assembleWith {m operand : List Char} {i : Instr} (h : assembleWith m operand = .command i) :
    i.wf = true := by
  unfold assembleWith at h
  split at h
  · obtain ⟨v, arg, harg, rfl⟩ := assembleAdd_eq_command h
    exact decide_eq_true (toNat_lt_of_operandWord (w := .w1) harg)
  split at h
  · obtain ⟨v, arg, harg, rfl⟩ := assembleAdd_eq_command h
    exact decide_eq_true (toNat_lt_of_operandWord (w := .w2) harg)
  split at h
  · obtain ⟨v, arg, -, rfl⟩ := assembleAdd_eq_command h
    rfl
  split at h
  · split at h
    · next r hr =>
      obtain rfl := AsmResult.command.inj h
      exact wf_rdreg (registerOperand_le hr)
    · simp at h
  · simp at h

/-- Settles O59: a line is blank, a bare mnemonic, or a mnemonic with one operand. -/
theorem assembledLinesAreWellFormed : Obligations.AssembledLinesAreWellFormed := by
  intro line i h
  unfold assemble at h
  split at h
  · simp at h
  · exact wf_of_assembleBare h
  · exact wf_of_assembleWith h
  · simp at h

end Sys2Proof.Machine

/-! PROOFS. The statements of spec/40_codec.md: the bytes that Encode writes, Decode from left to right, the well-formed frames,
and the frame that RECEIVE is buffering. -/

namespace Sys2Proof

open Machine

/-! ### The bytes of an encoded sequence (R84, R85) -/

@[simp] theorem isMarker_zero (raw : List Byte) : IsMarker raw 0 := .inl rfl

@[simp] theorem isMarker_succ {raw : List Byte} {i : Nat} : IsMarker raw (i + 1) ↔ raw[i]? = some 0#8 := by
  simp [IsMarker]

/-- A block-length byte lies before the terminator. -/
theorem IsMarker.le_length {raw : List Byte} {p : Nat} (h : IsMarker raw p) : p ≤ raw.length := by
  obtain rfl | ⟨i, rfl, hi⟩ := h
  · exact Nat.zero_le _
  · exact (List.getElem?_eq_some_iff.1 hi).1

/-- A distance runs to the first zero, or to the terminator when there is none. -/
theorem stuff_dist_eq_findIdx (raw : List Byte) : (stuff raw).1 = raw.findIdx (· == 0#8) + 1 := by
  induction raw with
  | nil => rfl
  | cons b rest ih =>
    by_cases hb : b = 0#8
    · simp [hb, stuff_zero, List.findIdx_cons]
    · simp [stuff_nonzero hb, List.findIdx_cons, beq_eq_false_iff_ne.2 hb, ih]

/-- The first byte behind a block-length byte is the raw byte, or the next block-length byte where that is zero. -/
theorem stuff_bytes_cons (b : Byte) (rest : List Byte) :
    (stuff (b :: rest)).2 = (if b = 0#8 then BitVec.ofNat 8 (stuff rest).1 else b) :: (stuff rest).2 := by
  by_cases hb : b = 0#8
  · simp [hb, stuff_zero]
  · simp [hb, stuff_nonzero hb]

/-- The byte that stands for the raw byte at `i`: the distance of what follows for a zero, the byte itself otherwise. -/
theorem stuff_bytes_getElem? {raw : List Byte} {i : Nat} {b : Byte} (h : raw[i]? = some b) :
    (stuff raw).2[i]? = some (if b = 0#8 then BitVec.ofNat 8 (stuff (raw.drop (i + 1))).1 else b) := by
  induction raw generalizing i with
  | nil => simp at h
  | cons c rest ih =>
    rw [stuff_bytes_cons]
    cases i with
    | zero =>
      obtain rfl : c = b := by simpa using h
      rfl
    | succ i => exact ih h

/-- The block-length byte at a marker is the distance of the raw bytes behind it (R85(c)). -/
theorem encodeFrame_getElem?_marker {raw : List Byte} {p : Nat} (h : IsMarker raw p) :
    (encodeFrame raw)[p]? = some (BitVec.ofNat 8 (stuff (raw.drop p)).1) := by
  rw [encodeFrame_eq_stuff]
  obtain rfl | ⟨i, rfl, hi⟩ := h
  · rfl
  · simpa using stuff_bytes_getElem? hi

/-- Away from the markers Encode copies the raw bytes (R85(d)). -/
theorem encodeFrame_getElem?_verbatim {raw : List Byte} {i : Nat} (hi : i < raw.length) (h : ¬ IsMarker raw (i + 1)) :
    (encodeFrame raw)[i + 1]? = raw[i]? := by
  have hget : raw[i]? = some raw[i] := List.getElem?_eq_getElem hi
  have hb : raw[i] ≠ 0#8 := fun hz => h (isMarker_succ.2 (hz ▸ hget))
  rw [encodeFrame_eq_stuff, List.getElem?_cons_succ, stuff_bytes_getElem? hget, if_neg hb, hget]

/-- A distance counted from a marker stays inside the frame. -/
theorem IsMarker.add_dist_le {raw : List Byte} {p : Nat} (h : IsMarker raw p) :
    p + (stuff (raw.drop p)).1 ≤ raw.length + 1 := by
  have := h.le_length
  have := (stuff_dist (raw.drop p)).2
  rw [List.length_drop] at this
  omega

/-- From a marker the distance leads to the next marker or to the terminator (R85(c)). -/
theorem IsMarker.add_dist {raw : List Byte} {p : Nat} (h : IsMarker raw p) :
    p + (stuff (raw.drop p)).1 = raw.length + 1 ∨ IsMarker raw (p + (stuff (raw.drop p)).1) := by
  have hp := h.le_length
  rw [stuff_dist_eq_findIdx, ← Nat.add_assoc, isMarker_succ, ← List.getElem?_drop]
  by_cases hz : (raw.drop p).findIdx (· == 0#8) < (raw.drop p).length
  · have hzero := List.findIdx_getElem (w := hz)
    exact .inr (List.getElem?_eq_some_iff.2 ⟨hz, by simpa using hzero⟩)
  · have hend := List.findIdx_le_length (xs := raw.drop p) (p := (· == 0#8))
    rw [List.length_drop] at hz hend
    exact .inl (by omega)

/-- There is no marker in between (R85(c)). -/
theorem not_isMarker_of_lt_dist {raw : List Byte} {p q : Nat} (hlow : p < q) (hhigh : q < p + (stuff (raw.drop p)).1) :
    ¬ IsMarker raw q := by
  obtain ⟨j, rfl⟩ := Nat.exists_eq_add_of_lt hlow
  rw [stuff_dist_eq_findIdx] at hhigh
  rw [isMarker_succ, ← List.getElem?_drop]
  intro hj
  obtain ⟨hlen, hzero⟩ := List.getElem?_eq_some_iff.1 hj
  have := List.not_of_lt_findIdx (xs := raw.drop p) (p := (· == 0#8)) (i := j) (by omega)
  simp [hzero] at this

/-! ### A sequence whose only zero is its last byte (R85(b), R92) -/

/-- The last byte of `f` is zero and no other is, said by position and by parts. -/
theorem onlyLastZero_iff {f : List Byte} :
    (f[f.length - 1]? = some terminator ∧ ∀ j, j < f.length - 1 → f[j]? ≠ some terminator) ↔
      ∃ body, f = body ++ [terminator] ∧ ∀ b ∈ body, b ≠ 0#8 := by
  constructor
  · rintro ⟨hlast, hfree⟩
    rw [← List.getLast?_eq_getElem?] at hlast
    obtain ⟨body, rfl⟩ := List.getLast?_eq_some_iff.1 hlast
    refine ⟨body, rfl, fun b hb hzero => ?_⟩
    obtain ⟨j, hj, hget⟩ := List.mem_iff_getElem.1 hb
    refine hfree j (by simpa using hj) ?_
    rw [List.getElem?_append_left hj, List.getElem?_eq_getElem hj, hget, hzero]
    rfl
  · rintro ⟨body, rfl, hfree⟩
    refine ⟨by simp, fun j hj hget => ?_⟩
    rw [List.getElem?_append_left (by simpa using hj)] at hget
    exact hfree _ (List.mem_of_getElem? hget) rfl

/-- An encoded sequence has no zero but its terminator (R85(b)). -/
theorem encodeFrame_onlyLastZero {raw : List Byte} (h : raw.length ≤ 252) :
    (encodeFrame raw)[raw.length + 1]? = some terminator ∧
      ∀ j, j < raw.length + 1 → (encodeFrame raw)[j]? ≠ some terminator := by
  have := onlyLastZero_iff.2 (encodeFrame_zeroFree (raw := raw) (by omega))
  rwa [encodeFrame_length] at this

/-- Settles O13: each block-length byte is the distance to the first raw zero behind it, and no distance is 0 mod 256. -/
theorem encodeProperties : Obligations.EncodeProperties := by
  intro raw hlen
  obtain ⟨hlast, hfree⟩ := encodeFrame_onlyLastZero hlen
  refine ⟨encodeFrame_length raw, ⟨fun j hj => hfree j (by omega), hlast⟩, fun p hp => ?_, fun j hlow hhigh hj => ?_⟩
  · have hdist := stuff_dist (raw.drop p)
    have hle := hp.add_dist_le
    exact ⟨(stuff (raw.drop p)).1, encodeFrame_getElem?_marker hp, hdist.1, by omega, hp.add_dist,
      fun q => not_isMarker_of_lt_dist⟩
  · obtain ⟨i, rfl⟩ := Nat.exists_eq_add_of_le' hlow
    exact encodeFrame_getElem?_verbatim hhigh hj

/-! ### Encode's corner cases (R86) -/

/-- Without a zero there is one block. -/
theorem stuff_of_zeroFree {raw : List Byte} (h : ∀ b ∈ raw, b ≠ 0#8) :
    stuff raw = (raw.length + 1, raw ++ [terminator]) := by
  induction raw with
  | nil => rfl
  | cons b rest ih =>
    obtain ⟨hb, hrest⟩ := List.forall_mem_cons.1 h
    rw [stuff_nonzero hb, ih hrest]
    rfl

/-- Of zeros only, every block is empty. -/
theorem stuff_replicate_zero (n : Nat) : stuff (List.replicate n 0#8) = (1, List.replicate n 1#8 ++ [terminator]) := by
  induction n with
  | zero => rfl
  | succ n ih =>
    rw [List.replicate_succ, stuff_zero, ih]
    rfl

theorem encodeFrame_of_zeroFree {raw : List Byte} (h : ∀ b ∈ raw, b ≠ 0#8) :
    encodeFrame raw = BitVec.ofNat 8 (raw.length + 1) :: (raw ++ [0#8]) := by
  rw [encodeFrame_eq_stuff, stuff_of_zeroFree h]
  rfl

/-- Settles O14: the zero-free and the all-zero sequence by induction, the bound from the distance at a marker. -/
theorem encodeCornerCases : Obligations.EncodeCornerCases := by
  refine ⟨rfl, fun raw => encodeFrame_of_zeroFree, fun n => ?_, fun raw hlen hfree => ?_, fun raw p v hlen hp hv => ?_,
    by decide, by decide⟩
  · rw [encodeFrame_eq_stuff, stuff_replicate_zero]
    rfl
  · rw [encodeFrame_of_zeroFree hfree, hlen]
    rfl
  · have hle := hp.add_dist_le
    obtain rfl : BitVec.ofNat 8 (stuff (raw.drop p)).1 = v := by simpa [encodeFrame_getElem?_marker hp] using hv
    rw [toNat_cursor (by omega)]
    omega

/-! ### Decode reads from left to right (R87, R88) -/

theorem decodeLoop_take (rem : Byte) (es : List Byte) (i : Nat) :
    (decodeLoop rem es).take i = decodeLoop rem (es.take i) := by
  induction es generalizing rem i with
  | nil => simp
  | cons e es ih =>
    cases i with
    | zero => rfl
    | succ i =>
      rw [List.take_succ_cons, decodeLoop_cons, decodeLoop_cons]
      split
      · rw [List.take_succ_cons, ih]
      · rw [List.take_succ_cons, ih]

/-- The first `i` decoded bytes come from the first byte of the frame and the `i` bytes behind it. -/
theorem decodeFrame_take {e : Byte} {es : List Byte} {i : Nat} (h : i + 2 ≤ (e :: es).length) :
    (decodeFrame (e :: es)).take i = decodeLoop e (es.take i) := by
  rw [List.length_cons] at h
  rw [decodeFrame_cons, decodeLoop_take, List.dropLast_eq_take, List.take_take, min_eq_left (by omega)]

/-- Settles O15: the loop has one output byte for each byte it reads. -/
theorem decodeReadsLeftToRight : Obligations.DecodeReadsLeftToRight := by
  refine ⟨fun enc _ => decodeFrame_length enc, fun enc enc' i hlen hlen' heq => ?_⟩
  cases enc with
  | nil => simp at hlen
  | cons e es =>
    cases enc' with
    | nil => simp at hlen'
    | cons e' es' =>
      obtain ⟨rfl, hes⟩ : e = e' ∧ es.take i = es'.take i := by simpa using heq
      rw [decodeFrame_take hlen, decodeFrame_take hlen', hes]

/-! ### The round trip and the well-formed frames (R91, R92) -/

/-- Settles O17: up to 252 bytes every distance fits Decode's 8-bit counter. -/
theorem decodeOfEncodeReturnsRaw : Obligations.DecodeOfEncodeReturnsRaw := fun _ hlen =>
  decodeFrame_encodeFrame (hlen.trans (by decide))

/-- The chain of an encoded sequence lands on the terminator from every marker (R92(iii)). -/
theorem chainLands_encodeFrame {raw : List Byte} (hlen : raw.length ≤ 252) {p : Nat} (hp : IsMarker raw p) :
    ChainLands (encodeFrame raw) p := by
  have hmarker := hp.le_length
  have hle := hp.add_dist_le
  have hpos := (stuff_dist (raw.drop p)).1
  refine .hop p _ (by rw [encodeFrame_length]; omega) (encodeFrame_getElem?_marker hp) ?_
  rw [toNat_cursor (by omega)]
  obtain hend | hnext := hp.add_dist
  · exact .last _ (by rw [hend, encodeFrame_length])
  · have hstep := hnext.le_length
    exact chainLands_encodeFrame hlen hnext
termination_by raw.length - p

theorem wellFormedFrame_encodeFrame {raw : List Byte} (h : raw.length ≤ 252) : WellFormedFrame (encodeFrame raw) := by
  obtain ⟨hlast, hfree⟩ := encodeFrame_onlyLastZero h
  rw [WellFormedFrame, encodeFrame_length]
  exact ⟨by omega, by omega, hlast, hfree, chainLands_encodeFrame h (isMarker_zero raw)⟩

theorem ChainLands.lt_length {f : List Byte} {p : Nat} (h : ChainLands f p) : p < f.length := by
  cases h with
  | last _ hp => omega
  | hop _ v hp _ _ => omega

/-- A chain from behind the first byte does not read it. -/
theorem ChainLands.tail {x : Byte} {g : List Byte} {p : Nat} (h : ChainLands (x :: g) (p + 1)) : ChainLands g p := by
  generalize hq : p + 1 = q at h
  induction h generalizing p with
  | last q hend => subst hq; exact .last p (by simpa using hend)
  | hop q v hlt hv _ ih =>
    subst hq
    exact .hop p v (by simpa using hlt) (by simpa using hv) (ih (by omega))

/-- The chain's first hop, seen from behind the first byte. -/
theorem ChainLands.tail_of_head {e : Byte} {g : List Byte} (hg : g ≠ []) (he : e ≠ 0#8) (h : ChainLands (e :: g) 0) :
    ChainLands g (e.toNat - 1) := by
  cases h with
  | last _ hend => simp [hg] at hend
  | hop _ v _ hv hnext =>
    obtain rfl : e = v := by simpa using hv
    exact ChainLands.tail (x := e) (by rwa [Nat.sub_add_cancel (by bv_omega), ← Nat.zero_add e.toNat])

/-- Encode undoes Decode's loop on zero-free bytes when the counter, and each block-length byte it reaches, counts to the next
one or to the terminator. -/
theorem stuff_decodeLoop {rem : Byte} {mid : List Byte} (hrem : rem ≠ 0#8) (hfree : ∀ b ∈ mid, b ≠ 0#8)
    (h : ChainLands (mid ++ [terminator]) (rem.toNat - 1)) :
    stuff (decodeLoop rem mid) = (rem.toNat, mid ++ [terminator]) := by
  induction mid generalizing rem with
  | nil =>
    have hland : rem.toNat - 1 < 1 := h.lt_length
    have hone : rem.toNat = 1 := by bv_omega
    rw [decodeLoop_nil, stuff_nil, hone, List.nil_append]
  | cons e mid ih =>
    obtain ⟨he, hfree⟩ := List.forall_mem_cons.1 hfree
    rw [decodeLoop_cons]
    split
    · next hlast =>
      have hone : rem.toNat = 1 := by bv_omega
      rw [hone] at h
      have hblock := ih he hfree (h.tail_of_head (by simp) he)
      simp [stuff_zero, hblock, hone]
    · next hmore =>
      have hcount : (rem - 1).toNat = rem.toNat - 1 := by bv_omega
      have htail : ChainLands (mid ++ [terminator]) ((rem - 1).toNat - 1) :=
        ChainLands.tail (x := e) (by rwa [hcount, Nat.sub_add_cancel (by bv_omega)])
      rw [stuff_nonzero he, ih hmore hfree htail, hcount, Nat.sub_add_cancel (by bv_omega)]
      rfl

/-- Encode undoes Decode on a well-formed frame (R92). -/
theorem encodeFrame_decodeFrame {f : List Byte} (h : WellFormedFrame f) : encodeFrame (decodeFrame f) = f := by
  obtain ⟨hlow, -, hlast, hinner, hchain⟩ := h
  obtain ⟨body, rfl, hbody⟩ := onlyLastZero_iff.1 ⟨hlast, hinner⟩
  cases body with
  | nil => simp at hlow
  | cons e mid =>
    obtain ⟨he, hfree⟩ := List.forall_mem_cons.1 hbody
    have hbytes := stuff_decodeLoop he hfree (ChainLands.tail_of_head (by simp) he hchain)
    rw [List.cons_append, decodeFrame_cons, List.dropLast_concat, encodeFrame_eq_stuff, hbytes]
    simp

/-- Settles O18: an encoded sequence's chain lands marker by marker, and Encode rebuilds a well-formed frame block by block. -/
theorem wellFormedFramesAreEncodings : Obligations.WellFormedFramesAreEncodings := by
  refine ⟨fun f n hn => ⟨fun ⟨hf, hlen⟩ => ?_, ?_⟩, fun f => encodeFrame_decodeFrame⟩
  · exact ⟨decodeFrame f, by rw [decodeFrame_length, hlen, Nat.add_sub_cancel], encodeFrame_decodeFrame hf⟩
  · rintro ⟨raw, rfl, rfl⟩
    exact ⟨wellFormedFrame_encodeFrame hn, encodeFrame_length raw⟩

/-! ### The frame being received (R90, R93) -/

/-- At a frame boundary nothing is buffered. -/
theorem FrameZeroFree.of_boundary {s : State} (h : s.rxIdx = 0) : FrameZeroFree s := by
  simp [FrameZeroFree, h]

/-- The claim is about RXB and RX_IDX only. -/
theorem FrameZeroFree.of_sameReceiver {s t : State} (h : FrameZeroFree s) (hrx : SameReceiver s t) : FrameZeroFree t := by
  unfold FrameZeroFree
  rw [hrx.rxb, hrx.rxIdx]
  exact h

/-- A byte written at RX_IDX leaves the buffered ones as they are. -/
theorem FrameZeroFree.read_write {s : State} (h : FrameZeroFree s) (b : Byte) {a : Nat} (ha : a < s.rxIdx.toNat) :
    (s.rxb.write s.rxIdx.toNat b).read a ≠ some terminator := by
  rw [Memory.read_write_ne _ _ (by omega)]
  exact h a ha

/-- Frame completion leaves RX_IDX where the terminator put it (R125 to R129). -/
theorem finishFrame_rxIdx {l : Nat} {s u : State} {st : Status} (h : finishFrame l s = .ok (u, st)) :
    u.rxIdx = s.rxIdx := by
  obtain ⟨-, rfl, -⟩ | ⟨-, -, rfl, -⟩ | ⟨-, -, -, enc, -, ⟨-, -, rfl⟩ | ⟨-, -, rfl⟩⟩ := finishFrame_cases h
  all_goals rfl

/-- RX_IDX moves past a byte only when it is no terminator, and a terminator moves it to 0 (R124). -/
theorem rxStep_keeps_zeroFree {b : Byte} {rest : List Byte} {s t : State} {o : Option Status} (h : FrameZeroFree s)
    (hr : rxStep b rest s = .ok (t, o)) : FrameZeroFree t := by
  obtain ⟨-, ⟨hb, hi, -, rfl⟩ | ⟨-, -, -, rfl⟩ | ⟨-, st, -, hf⟩⟩ := rxStep_cases hr
  · intro a ha
    have hcap := s.cfg.rxcap_le
    rw [State.setRxIdx_rxIdx, toNat_cursor (by omega)] at ha
    obtain hold | rfl := Nat.lt_succ_iff_lt_or_eq.1 ha
    · exact h.read_write b hold
    · show (s.rxb.write s.rxIdx.toNat b).read s.rxIdx.toNat ≠ some terminator
      rw [Memory.read_write_same]
      exact fun hz => hb (Option.some.inj hz)
  · exact fun a => h.read_write b
  · exact .of_boundary (finishFrame_rxIdx hf)

theorem execRecv_keeps_zeroFree {s t : State} (h : FrameZeroFree s) (ht : execRecv s = .next t) : FrameZeroFree t := by
  obtain ⟨-, rfl⟩ | ⟨b, rest, -, hr⟩ | ⟨b, rest, u, st, -, hr, rfl⟩ := execRecv_cases ht
  · exact h
  · exact rxStep_keeps_zeroFree h hr
  · rw [completeRecv_eq]
    have hu : FrameZeroFree u := rxStep_keeps_zeroFree h hr
    exact hu

/-- Every instruction keeps the frame zero-free: no other than RECEIVE writes what it is about. -/
theorem exec_keeps_zeroFree {i : Instr} {s t : State} (h : FrameZeroFree s) (ht : exec i s = .next t) :
    FrameZeroFree t := by
  by_cases hi : i = .recv
  · subst hi
    exact execRecv_keeps_zeroFree h ht
  · exact h.of_sameReceiver ((exec_frame ht).receiver hi)

theorem frameZeroFree_keptByParts : KeptByParts FrameZeroFree where
  exec := exec_keeps_zeroFree
  illegal h := h
  turns _ _ h := h
  present _ h := h
  reset _ := .of_boundary rfl
  setTin _ h := h
  setTout _ h := h

/-- Settles O55: each part of a step keeps the frame zero-free. -/
theorem frameInProgressStaysZeroFree : Obligations.FrameInProgressStaysZeroFree := fun _ _ => frameZeroFree_keptByParts.step

end Sys2Proof

/-! PROOFS. The statements of spec/41_checksum.md: the checksum as a sum, what Validate compares, and which flipped bits it
detects. -/

namespace Sys2Proof

open Machine

/-! ### The checksum as a sum (R100) -/

theorem checksumFrom_eq_add_sum (acc : Byte) (s : List Byte) : checksumFrom acc s = acc + s.sum := by
  induction s generalizing acc with
  | nil => exact (add_zero acc).symm
  | cons b bs ih => rw [checksumFrom, ih, List.sum_cons, add_assoc]

theorem checksum_eq_sum (s : List Byte) : checksum s = s.sum := by
  rw [checksum, checksumFrom_eq_add_sum, zero_add]

/-- The sum of bytes as numbers, cut to one byte, is their sum as bytes. -/
theorem toNat_sum_bytes (s : List Byte) : s.sum.toNat = (s.map BitVec.toNat).sum % 256 := by
  induction s with
  | nil => rfl
  | cons b bs ih => simp [ih]

theorem checksum_perm {s s' : List Byte} (h : s.Perm s') : checksum s = checksum s' := by
  rw [checksum_eq_sum, checksum_eq_sum, h.sum_eq]

/-- Settles O19: the accumulator loop adds up the bytes, and a sum keeps its value under reordering. -/
theorem checksumIsTheSum : Obligations.ChecksumIsTheSum :=
  ⟨fun s => by rw [checksum_eq_sum, toNat_sum_bytes], fun _ _ => checksum_perm⟩

/-! ### What Validate compares, and when it is asked (R102) -/

theorem validate_concat {s : List Byte} {c : Byte} : validate (s ++ [c]) = true ↔ checksum s = c := by simp [validate]

/-- The iteration that takes the terminator of a runt completes RECEIVE with CHECKSUM_INVALID (R126, R130). -/
theorem execRecv_runt {s : State} {rest : List Byte} (htin : s.tin = terminator :: rest) (hovf : s.rxOvf = false)
    (hrunt : s.rxIdx.toNat + 1 < 3) :
    execRecv s = .next ((terminated s rest).respond .checksumInvalid 0) := by
  have hroom : s.rxIdx.toNat < s.cfg.rxcap := by rw [s.cfg.rxcap_eq]; omega
  refine execRecv_of_frame (st := .checksumInvalid) htin ?_
  rw [rxStep_terminator hroom, finishFrame_runt (s := terminated s rest) hovf hrunt]

/-- A frame of three bytes or more decodes to one byte or more (R87). -/
theorem decodeFrame_ne_nil {enc : List Byte} (h : 3 ≤ enc.length) : decodeFrame enc ≠ [] := by
  rw [← List.length_pos_iff, decodeFrame_length]
  omega

/-- Settles O20: RECEIVE completes a runt before it decodes, and a longer frame decodes to a byte at least. -/
theorem validateComparesTheLastByte : Obligations.ValidateComparesTheLastByte :=
  ⟨fun _ _ => validate_concat,
    fun _ _ htin hovf hrunt => ⟨_, execRecv_runt htin hovf hrunt, rfl, rfl, rfl, rfl⟩,
    fun _ => decodeFrame_ne_nil⟩

/-! ### A flipped bit in a byte -/

theorem getLsbD_xor_twoPow (b : Byte) {k : Nat} (hk : k < 8) :
    (b ^^^ BitVec.twoPow 8 k).getLsbD k = !b.getLsbD k := by
  simp [hk]

theorem xor_twoPow_ne (b : Byte) {k : Nat} (hk : k < 8) : b ^^^ BitVec.twoPow 8 k ≠ b := fun h => by
  simpa [h] using getLsbD_xor_twoPow b hk

/-- Setting a bit that is clear adds its weight. -/
theorem xor_twoPow_of_clear {b : Byte} {k : Nat} (h : b.getLsbD k = false) :
    b ^^^ BitVec.twoPow 8 k = b + BitVec.twoPow 8 k := by
  have hand : b &&& BitVec.twoPow 8 k = 0#8 := by simp [BitVec.and_twoPow, h]
  rw [BitVec.add_eq_or_of_and_eq_zero _ _ hand]
  refine BitVec.eq_of_getLsbD_eq fun j _ => ?_
  by_cases hjk : k = j
  · simp [← hjk, h]
  · simp [hjk]

/-- Clearing a bit that is set subtracts its weight. -/
theorem xor_twoPow_of_set {b : Byte} {k : Nat} (hk : k < 8) (h : b.getLsbD k = true) :
    b ^^^ BitVec.twoPow 8 k = b - BitVec.twoPow 8 k := by
  have hclear : (b ^^^ BitVec.twoPow 8 k).getLsbD k = false := by rw [getLsbD_xor_twoPow b hk, h]; rfl
  rw [eq_sub_iff_add_eq, ← xor_twoPow_of_clear hclear, BitVec.xor_assoc, BitVec.xor_self, BitVec.xor_zero]

/-- The top bit's weight is its own negative, so that flipping it always adds it. -/
theorem xor_twoPow_seven (b : Byte) : b ^^^ BitVec.twoPow 8 7 = b + BitVec.twoPow 8 7 := by
  cases h : b.getLsbD 7 with
  | false => exact xor_twoPow_of_clear h
  | true => rw [xor_twoPow_of_set (by decide) h, sub_eq_add_neg]; rfl

/-! ### A flipped bit in a sequence (R103) -/

@[simp] theorem flipBit_length (s : List Byte) (i k : Nat) : (flipBit s i k).length = s.length := by simp [flipBit]

theorem flipBit_eq_set {s : List Byte} {i : Nat} (k : Nat) (hi : i < s.length) :
    flipBit s i k = s.set i (s[i] ^^^ BitVec.twoPow 8 k) := by
  have hbit : BitVec.ofNat 8 (2 ^ k) = BitVec.twoPow 8 k := BitVec.eq_of_toNat_eq (by simp [BitVec.toNat_twoPow])
  rw [flipBit, List.modify_eq_set_get _ hi, hbit]
  rfl

/-- A flip in a data byte leaves the byte behind the data. -/
theorem flipBit_concat {s : List Byte} {i : Nat} (c : Byte) (k : Nat) (hi : i < s.length) :
    flipBit (s ++ [c]) i k = flipBit s i k ++ [c] := by
  rw [flipBit_eq_set k hi, flipBit_eq_set k (by simp; omega)]
  simp [hi]

/-- A flip in the last byte leaves the data before it. -/
theorem flipBit_concat_last (s : List Byte) (c : Byte) (k : Nat) :
    flipBit (s ++ [c]) s.length k = s ++ [c ^^^ BitVec.twoPow 8 k] := by
  rw [flipBit_eq_set k (by simp)]
  simp

/-- Two flips in data bytes leave the byte behind the data. -/
theorem flipBit_flipBit_concat {s : List Byte} {i j : Nat} (c : Byte) (k : Nat) (hi : i < s.length) (hj : j < s.length) :
    flipBit (flipBit (s ++ [c]) i k) j k = flipBit (flipBit s i k) j k ++ [c] := by
  rw [flipBit_concat c k hi, flipBit_concat c k (by simpa using hj)]

theorem getElem_flipBit_ne {s : List Byte} {i j : Nat} (k : Nat) (hij : i ≠ j) (hj : j < s.length) :
    (flipBit s i k)[j]'(by simpa using hj) = s[j] :=
  List.getElem_modify_ne _ _ hij _

/-- A flip changes the checksum by what it changes its byte. -/
theorem checksum_flipBit {s : List Byte} {i : Nat} (k : Nat) (hi : i < s.length) :
    checksum (flipBit s i k) = checksum s + ((s[i] ^^^ BitVec.twoPow 8 k) - s[i]) := by
  rw [checksum_eq_sum, checksum_eq_sum, flipBit_eq_set k hi, List.sum_set', dif_pos hi, sub_eq_neg_add]

/-- Two flips in different bytes change the checksum by what they change the two bytes. -/
theorem checksum_flipBit_flipBit {s : List Byte} {i j : Nat} (k : Nat) (hi : i < s.length) (hj : j < s.length)
    (hij : i ≠ j) :
    checksum (flipBit (flipBit s i k) j k) =
      checksum s + ((s[i] ^^^ BitVec.twoPow 8 k) - s[i]) + ((s[j] ^^^ BitVec.twoPow 8 k) - s[j]) := by
  rw [checksum_flipBit k (by simpa using hj), checksum_flipBit k hi, getElem_flipBit_ne k hij hj]

/-- A flip in a data byte changes the checksum (R103(b)). -/
theorem checksum_flipBit_ne {s : List Byte} {i k : Nat} (hi : i < s.length) (hk : k < 8) :
    checksum (flipBit s i k) ≠ checksum s := by
  rw [checksum_flipBit k hi, Ne, add_eq_left, sub_eq_zero]
  exact xor_twoPow_ne s[i] hk

/-- Setting a bit of one byte and clearing it in another leaves the checksum (R103(c)). -/
theorem checksum_flipBit_compensating {s : List Byte} {i j k : Nat} (hi : i < s.length) (hj : j < s.length) (hij : i ≠ j)
    (hk : k < 8) (hset : s[i].getLsbD k = true) (hclear : s[j].getLsbD k = false) :
    checksum (flipBit (flipBit s i k) j k) = checksum s := by
  rw [checksum_flipBit_flipBit k hi hj hij, xor_twoPow_of_set hk hset, xor_twoPow_of_clear hclear]
  abel

/-- Flipping the top bit of two bytes leaves the checksum: 128 + 128 is 0 mod 256 (R103(c)). -/
theorem checksum_flipBit_seven {s : List Byte} {i j : Nat} (hi : i < s.length) (hj : j < s.length) (hij : i ≠ j) :
    checksum (flipBit (flipBit s i 7) j 7) = checksum s := by
  have hwrap : BitVec.twoPow 8 7 + BitVec.twoPow 8 7 = 0 := by decide
  rw [checksum_flipBit_flipBit 7 hi hj hij, xor_twoPow_seven, xor_twoPow_seven, add_sub_cancel_left, add_sub_cancel_left,
    add_assoc, hwrap, add_zero]

/-- A flip in a data byte changes the checksum and not the byte it is compared with; a flip in the checksum byte does the
reverse (R103(b)). -/
theorem validate_flipBit {s : List Byte} {i k : Nat} (hi : i ≤ s.length) (hk : k < 8) :
    validate (flipBit (s ++ [checksum s]) i k) = false := by
  rw [← Bool.not_eq_true]
  obtain hdata | rfl := hi.lt_or_eq
  · rw [flipBit_concat _ k hdata, validate_concat]
    exact checksum_flipBit_ne hdata hk
  · rw [flipBit_concat_last, validate_concat]
    exact (xor_twoPow_ne _ hk).symm

/-- Settles O21: Validate sees a change only through the sum of the data bytes and the byte behind them. -/
theorem checksumDetectsSingleBitErrors : Obligations.ChecksumDetectsSingleBitErrors := by
  refine ⟨validate_checksum, fun _ _ _ => validate_flipBit, fun s i j k hi hj hij hk hset hclear => ?_,
    fun s i j hi hj hij => ?_, fun s s' hperm => validate_concat.2 (checksum_perm hperm).symm⟩
  · rw [flipBit_flipBit_concat _ k hi hj, validate_concat]
    exact checksum_flipBit_compensating hi hj hij hk hset hclear
  · rw [flipBit_flipBit_concat _ 7 hi hj, validate_concat]
    exact checksum_flipBit_seven hi hj hij

end Sys2Proof

/-! PROOFS. The statements of spec/42_endian.md: the reverser's table, and that it is its own inverse. -/

namespace Sys2Proof

open Machine

/-- The table of the reverser (R107): REV = 1 reverses the images of more than one byte, and everything else passes. -/
theorem reverseField_eq_ite (rev : Bool) (w : Width) (img : List Byte) :
    reverseField rev w img = if rev = true ∧ (w = .w2 ∨ w = .w4) then img.reverse else img := by
  cases w with
  | w1 => simp [reverseField]
  | w2 => simp [reverseField]
  | w4 => simp [reverseField]

/-- Reversing twice gives the image back (R108), since both passes are in the same row of the table. -/
theorem reverseField_reverseField (rev : Bool) (w : Width) (img : List Byte) :
    reverseField rev w (reverseField rev w img) = img := by
  by_cases h : rev = true ∧ (w = .w2 ∨ w = .w4)
  · simp only [reverseField_eq_ite, if_pos h, List.reverse_reverse]
  · simp only [reverseField_eq_ite, if_neg h]

/-- Settles O22: the table of the reverser, row by row, and the reverser after itself. -/
theorem reverserIsItsOwnInverse : Obligations.ReverserIsItsOwnInverse := fun rev w img =>
  ⟨fun h => (reverseField_eq_ite rev w img).trans (if_pos h), fun h => (reverseField_eq_ite rev w img).trans (if_neg h),
    reverseField_reverseField rev w img⟩

end Sys2Proof

/-! PROOFS. The statements of spec/43_send.md: what ADDF1, ADDF2, ADDF4 and SEND do with the send buffer and TOUT, and the frame
that appended fields make. -/

namespace Sys2Proof.Machine

/-! ### Appending a field (R113 to R116) -/

/-- ADD_FIELD with room: TXB holds the reversed image from TX_LEN on, and every other byte is kept (R113). -/
theorem addField_appends {w : Width} {arg : Word} {s : State} (h : s.txLen.toNat + widthBytes w + 1 ≤ s.cfg.capacity) :
    ∃ m : Memory, addField w arg s = .next ((s.setTx m (s.txLen.toNat + widthBytes w)).respond .ok 0) ∧
      m.readBytes s.txLen.toNat (widthBytes w) = some (reverseField s.cfg.rev w (argImage w arg)) ∧
      ∀ a, a < s.txLen.toNat ∨ s.txLen.toNat + widthBytes w ≤ a → m.read a = s.txb.read a := by
  have hlen : (reverseField s.cfg.rev w (argImage w arg)).length = widthBytes w := by simp
  refine ⟨_, addField_room h, ?_, fun a ha => Memory.read_writeBytes_outside _ _ (by rwa [hlen])⟩
  simpa only [hlen] using Memory.readBytes_writeBytes s.txb s.txLen.toNat (reverseField s.cfg.rev w (argImage w arg))

/-- Settles O25: the run that ADD_FIELD of width 1 writes is one byte. -/
theorem addf1AppendsOneByte : Obligations.Addf1AppendsOneByte := by
  refine fun s arg => ⟨decode_encode (.addf1 arg), fun hroom => ?_, addField_full (w := .w1)⟩
  obtain ⟨m, hexec, hbytes, hkept⟩ := addField_appends (w := .w1) (arg := arg) hroom
  exact ⟨m, hexec, Memory.read_of_readBytes hbytes Nat.one_pos, fun a ha => hkept a (by simp only [widthBytes]; omega)⟩

/-- Settles O26: ADD_FIELD of width 2, with the lanes of its image written out. -/
theorem addf2AppendsTwoBytes : Obligations.Addf2AppendsTwoBytes := fun _ arg =>
  ⟨decode_encode (.addf2 arg), addField_appends (w := .w2), addField_full (w := .w2)⟩

/-- Settles O27: ADD_FIELD of width 4, with the lanes of its image written out. -/
theorem addf4AppendsFourBytes : Obligations.Addf4AppendsFourBytes := fun _ arg =>
  ⟨decode_encode (.addf4 arg), addField_appends (w := .w4), addField_full (w := .w4)⟩

/-! ### Transmitting the packet (R117) -/

/-- Settles O29: the checksum is one byte written at TX_LEN, and R31(a) keeps room for it. -/
theorem sendTransmitsTheFrame : Obligations.SendTransmitsTheFrame := by
  intro s
  refine ⟨decode_of_not_readsArg (i := .send) rfl, fun fields hroom hfields => ?_, execSend_full, fun hinv hfull => ?_⟩
  · exact ⟨_, execSend_room hroom hfields, Memory.read_write_same .., fun _ ha => Memory.read_write_ne _ _ ha⟩
  · by_contra hcap
    have := hinv.send_room (by omega)
    omega

/-! ### The frame of appended fields (R118) -/

theorem exec_add (w : Width) (arg : Word) (s : State) : exec (addFieldInstr arg w) s = addField w arg s := by
  cases w <;> rfl

/-- Between commands, with the instance, TOUT and the receive state of `s₀`: the bytes `bs` in TXB, a host that will append the
fields `fs` and send, and room for both and the checksum. -/
structure Unsent (s₀ : State) (bs : List Byte) (fs : List TypedField) (s : State) : Prop where
  idle : s.busy = false
  cursor : s.txLen.toNat = bs.length
  bytes : s.txb.readBytes 0 bs.length = some bs
  room : bs.length + (payloadOf s₀.cfg.rev fs).length + 1 ≤ s₀.cfg.capacity
  script : s.script = fs.map addTurn ++ [.issue (encode .send)]
  onward : s.onward = .quiet
  cfg : s.cfg = s₀.cfg
  tout : s.tout = s₀.tout
  receiver : withReceiveState s s₀ = s

/-- Appending the next field puts its bytes behind those already in TXB. -/
theorem Unsent.add {s₀ s : State} {bs : List Byte} {f : TypedField} {fs : List TypedField} (h : Unsent s₀ bs (f :: fs) s) :
    ∃ t, runSteps 2 s = .next t ∧ Unsent s₀ (bs ++ reverseField s₀.cfg.rev f.1 (argImage f.1 f.2)) fs t := by
  obtain ⟨hidle, hcursor, hbytes, hroom, hscript, honward, hcfg, htout, hreceiver⟩ := h
  have himage : (reverseField s₀.cfg.rev f.1 (argImage f.1 f.2)).length = widthBytes f.1 := by simp
  have hcap := s₀.cfg.capacity_le
  rw [payloadOf_cons, List.length_append, himage] at hroom
  have hwaits : HostWaits (s.setScript (fs.map addTurn ++ [.issue (encode .send)])) := by
    cases fs <;> exact .inr ⟨_, _, rfl⟩
  obtain ⟨m, hexec, hfield, hkept⟩ := addField_appends (w := f.1) (arg := f.2)
    (s := (s.setScript (fs.map addTurn ++ [.issue (encode .send)])).present (encode (addFieldInstr f.2 f.1)))
    (show s.txLen.toNat + _ + 1 ≤ s.cfg.capacity by rw [hcfg]; omega)
  change m.readBytes s.txLen.toNat _ = some (reverseField s.cfg.rev f.1 _) at hfield
  change ∀ a, a < s.txLen.toNat ∨ _ → m.read a = s.txb.read a at hkept
  rw [hcursor, hcfg] at hfield
  rw [hcursor] at hkept
  rw [← exec_add] at hexec
  have hold : m.readBytes 0 bs.length = some bs :=
    (Memory.readBytes_congr fun a _ ha => hkept a (by omega)).trans hbytes
  refine ⟨_, runSteps_issue hidle hscript (decode_encode _) hwaits hexec, ?_⟩
  exact
    { idle := rfl
      cursor := by
        change (BitVec.ofNat 8 (s.txLen.toNat + widthBytes f.1)).toNat = _
        rw [hcursor, List.length_append, himage, toNat_cursor (by omega)]
      bytes := by
        rw [List.length_append, himage]
        exact Memory.readBytes_append hold (by rwa [Nat.zero_add])
      room := by rw [List.length_append, himage]; omega
      script := rfl
      onward := honward
      cfg := hcfg
      tout := htout
      receiver := by rw [← hreceiver]; rfl }

/-- Appending all the fields leaves only SEND to come. -/
theorem Unsent.add_all {s₀ s : State} {bs : List Byte} {fs : List TypedField} (h : Unsent s₀ bs fs s) :
    ∃ t, runSteps (2 * fs.length) s = .next t ∧ Unsent s₀ (bs ++ payloadOf s₀.cfg.rev fs) [] t := by
  induction fs generalizing s bs with
  | nil => exact ⟨s, rfl, (List.append_nil bs).symm ▸ h⟩
  | cons f fs ih =>
    obtain ⟨u, hrun, hu⟩ := h.add
    obtain ⟨t, hrun', ht⟩ := ih hu
    refine ⟨t, ?_, by rwa [payloadOf_cons, ← List.append_assoc]⟩
    rw [List.length_cons, Nat.mul_succ, Nat.add_comm, runSteps_add _ hrun, hrun']

/-- With all fields appended, SEND transmits the bytes in TXB with their checksum. -/
theorem Unsent.send {s₀ s : State} {p : List Byte} (h : Unsent s₀ p [] s) :
    ∃ t, runSteps 2 s = .next t ∧ t.tout = s₀.tout ++ encodeFrame (p ++ [checksum p]) ∧ t.txLen = 0 ∧ t.status = 0#4 ∧
      t.result = BitVec.ofNat 32 (p.length + 3) ∧ t.busy = false ∧ t.script = [] ∧ withReceiveState t s₀ = t := by
  obtain ⟨hidle, hcursor, hbytes, hroom, hscript, honward, hcfg, htout, hreceiver⟩ := h
  have hexec := execSend_room (fields := p) (s := (s.setScript []).present (encode .send))
    (show s.txLen.toNat + 1 ≤ s.cfg.capacity by rw [hcursor, hcfg]; exact hroom)
    (show s.txb.readBytes 0 s.txLen.toNat = some p by rwa [hcursor])
  exact ⟨_, runSteps_issue hidle hscript (decode_encode .send) (.inl ⟨rfl, .inl honward⟩) hexec,
    congrArg (· ++ encodeFrame (p ++ [checksum p])) htout, rfl, rfl, congrArg (fun n => BitVec.ofNat 32 (n + 3)) hcursor,
    rfl, rfl, by rw [← hreceiver]; rfl⟩

/-- Settles O31: field by field the payload comes to stand in TXB, and SEND transmits it with its checksum. -/
theorem appendedFieldsMakeTheFrame : Obligations.AppendedFieldsMakeTheFrame := by
  intro s fs hidle hempty hscript honward hroom p
  have hstart : Unsent s [] fs s := ⟨hidle, by simp [hempty], rfl, by simpa using hroom, hscript, honward, rfl, rfl, rfl⟩
  obtain ⟨u, hadd, hu⟩ := hstart.add_all
  obtain ⟨t, hsend, htout, hrest⟩ := hu.send
  refine ⟨t, (runSteps_add 2 hadd).trans hsend, htout, ?_, hrest⟩
  rw [htout, List.nil_append, List.length_append, encodeFrame_length, List.length_append, List.length_singleton]
  rfl

end Sys2Proof.Machine

/-! PROOFS. The statements of spec/44_receive.md: the micro-step on a byte and on the terminator, overflow and the return to a
frame boundary, when RECEIVE completes and when it never does (spec/70_reset_and_hazards.md R166), typed extraction, and that
the send path and the receive path share no state. -/

namespace Sys2Proof.Machine

/-! ### The micro-step on a byte that is no terminator (R124) -/

/-- RECEIVE has taken the byte `b` from TIN: RXB holds it at RX_IDX, which moves on as far as the last index of RXB, and
RX_OVF is set when it was there already. -/
def buffered (s : State) (b : Byte) (rest : List Byte) : State :=
  ((s.takeByte rest (s.rxb.write s.rxIdx.toNat b)).setRxIdx (min (s.rxIdx.toNat + 1) (s.cfg.rxcap - 1))).setRxOvf
    (s.rxOvf || decide (s.rxIdx.toNat = s.cfg.rxcap - 1))

section
variable (s : State) (b : Byte) (rest : List Byte)

@[simp] theorem buffered_cfg : (buffered s b rest).cfg = s.cfg := rfl
@[simp] theorem buffered_cmd : (buffered s b rest).cmd = s.cmd := rfl
@[simp] theorem buffered_busy : (buffered s b rest).busy = s.busy := rfl
@[simp] theorem buffered_txb : (buffered s b rest).txb = s.txb := rfl
@[simp] theorem buffered_txLen : (buffered s b rest).txLen = s.txLen := rfl
@[simp] theorem buffered_rxOvf :
    (buffered s b rest).rxOvf = (s.rxOvf || decide (s.rxIdx.toNat = s.cfg.rxcap - 1)) := rfl
@[simp] theorem buffered_extractPos : (buffered s b rest).extractPos = s.extractPos := rfl
@[simp] theorem buffered_tin : (buffered s b rest).tin = rest := rfl
@[simp] theorem buffered_tout : (buffered s b rest).tout = s.tout := rfl
@[simp] theorem buffered_script : (buffered s b rest).script = s.script := rfl
@[simp] theorem buffered_onward : (buffered s b rest).onward = s.onward := rfl

end

/-- Below the last index RX_IDX moves on and RX_OVF stays. -/
theorem buffered_of_lt {s : State} (b : Byte) (rest : List Byte) (h : s.rxIdx.toNat < s.cfg.rxcap - 1) :
    buffered s b rest = (s.takeByte rest (s.rxb.write s.rxIdx.toNat b)).setRxIdx (s.rxIdx.toNat + 1) := by
  rw [buffered, Nat.min_eq_left h, State.setRxOvf_self]
  simp [Nat.ne_of_lt h]

/-- At the last index RX_IDX stays and RX_OVF is set. -/
theorem buffered_of_last {s : State} (b : Byte) (rest : List Byte) (h : s.rxIdx.toNat = s.cfg.rxcap - 1) :
    buffered s b rest = (s.takeByte rest (s.rxb.write s.rxIdx.toNat b)).setRxOvf true := by
  have hidx : BitVec.ofNat 8 (s.cfg.rxcap - 1) = s.rxIdx := by rw [← h, BitVec.ofNat_toNat, BitVec.setWidth_eq]
  rw [buffered, Nat.min_eq_right (by omega), decide_eq_true h, Bool.or_true, State.setRxIdx, hidx]
  rfl

theorem buffered_rxIdx_toNat (s : State) (b : Byte) (rest : List Byte) :
    (buffered s b rest).rxIdx.toNat = min (s.rxIdx.toNat + 1) (s.cfg.rxcap - 1) := by
  have := s.cfg.rxcap_le
  exact toNat_cursor (by omega)

/-- RX_IDX stays inside RXB (R31(b)). -/
theorem buffered_rxIdx_lt (s : State) (b : Byte) (rest : List Byte) : (buffered s b rest).rxIdx.toNat < s.cfg.rxcap := by
  rw [buffered_rxIdx_toNat, s.cfg.rxcap_eq]
  omega

/-- The iteration of RECEIVE on a byte that is no terminator. -/
theorem execRecv_buffered {s : State} {b : Byte} {rest : List Byte} (htin : s.tin = b :: rest) (hb : b ≠ 0#8)
    (hi : s.rxIdx.toNat < s.cfg.rxcap) : execRecv s = .next (buffered s b rest) := by
  refine execRecv_of_byte htin ?_
  rw [rxStep_byte hb hi]
  split
  · next hlt => rw [buffered_of_lt b rest hlt]
  · next hge => rw [buffered_of_last b rest (by omega)]

/-- Settles O32: the byte stands at RX_IDX, and which cursor write follows depends on whether that is the last index. -/
theorem recvBuffersTheByte : Obligations.RecvBuffersTheByte := by
  intro s b rest htin hb hi
  have hexec : exec .recv s = .next (buffered s b rest) := execRecv_buffered htin hb hi
  refine ⟨s.rxb.write s.rxIdx.toNat b, Memory.read_write_same .., fun _ ha => Memory.read_write_ne _ _ ha, fun hlt => ?_,
    fun hlast => ?_⟩
  · rw [hexec, buffered_of_lt b rest hlt]
    rfl
  · rw [hexec, buffered_of_last b rest hlast]
    rfl

/-- Settles O34: the loop ends at once with INCOMPLETE. -/
theorem recvOnEmptyInputChangesNothing : Obligations.RecvOnEmptyInputChangesNothing := fun _ => execRecv_empty

/-! ### The micro-step on the terminator (R125 to R129) -/

/-- The iteration that takes the terminator of an overflowed frame completes RECEIVE with OVERFLOW (R125). -/
theorem execRecv_overflowed {s : State} {rest : List Byte} (htin : s.tin = terminator :: rest) (hovf : s.rxOvf = true)
    (hi : s.rxIdx.toNat < s.cfg.rxcap) :
    execRecv s = .next (((terminated s rest).setRxOvf false).respond .overflow 0) := by
  refine execRecv_of_frame (st := .overflow) htin ?_
  rw [rxStep_terminator hi, finishFrame_overflow (s := terminated s rest) hovf]

/-- RXB once the terminator is written behind the buffered bytes `body` and the frame is decoded in place (R124, R127). -/
def unstuffed (s : State) (body : List Byte) : Memory :=
  (s.rxb.write s.rxIdx.toNat terminator).writeBytes 0 (decodeFrame (body ++ [terminator]))

/-- The frame whose bytes but the terminator are in RXB is decoded when the terminator comes (R127, R128). -/
theorem finishFrame_terminated {s : State} {body : List Byte} (rest : List Byte) (hovf : s.rxOvf = false)
    (hl : 3 ≤ s.rxIdx.toNat + 1) (hi : s.rxIdx.toNat < s.cfg.rxcap) (hbody : s.rxb.readBytes 0 s.rxIdx.toNat = some body) :
    finishFrame (s.rxIdx.toNat + 1) (terminated s rest) =
      if validate (decodeFrame (body ++ [terminator])) then
        .ok ((((terminated s rest).setRxb (unstuffed s body)).setRxLen (s.rxIdx.toNat + 1 - 2)).deliver (s.rxIdx.toNat + 1 - 3),
          .delivered)
      else .ok (((terminated s rest).setRxb (unstuffed s body)).setRxLen (s.rxIdx.toNat + 1 - 2), .checksumInvalid) := by
  refine finishFrame_decoded (s := terminated s rest) hovf hl hi (Memory.readBytes_succ ?_ ?_)
  · rw [← hbody]
    exact Memory.readBytes_congr fun a _ ha => Memory.read_write_ne _ _ (by omega)
  · rw [Nat.zero_add]
    exact Memory.read_write_same ..

section
variable {s : State} {body rest : List Byte} (htin : s.tin = terminator :: rest) (hovf : s.rxOvf = false)
  (hl : 3 ≤ s.rxIdx.toNat + 1) (hi : s.rxIdx.toNat < s.cfg.rxcap) (hbody : s.rxb.readBytes 0 s.rxIdx.toNat = some body)
include htin hovf hl hi hbody

/-- The iteration that takes the terminator of a frame whose checksum fails (R128). -/
theorem execRecv_invalid (hv : validate (decodeFrame (body ++ [terminator])) = false) :
    execRecv s = .next ((((terminated s rest).setRxb (unstuffed s body)).setRxLen (s.rxIdx.toNat + 1 - 2)).respond
      .checksumInvalid 0) := by
  refine execRecv_of_frame (st := .checksumInvalid) htin ?_
  rw [rxStep_terminator hi, finishFrame_terminated rest hovf hl hi hbody, hv]
  rfl

/-- The iteration that takes the terminator of a frame whose checksum holds (R129, R130). -/
theorem execRecv_delivered (hv : validate (decodeFrame (body ++ [terminator])) = true) :
    execRecv s = .next (((((terminated s rest).setRxb (unstuffed s body)).setRxLen (s.rxIdx.toNat + 1 - 2)).deliver
      (s.rxIdx.toNat + 1 - 3)).respond .delivered (BitVec.ofNat 32 (s.rxIdx.toNat + 1 - 3))) := by
  have hcap := s.cfg.rxcap_le
  have hresult : (BitVec.ofNat 8 (s.rxIdx.toNat + 1 - 3)).setWidth 32 = BitVec.ofNat 32 (s.rxIdx.toNat + 1 - 3) :=
    BitVec.setWidth_ofNat_of_le_of_lt (by decide) (by omega)
  rw [← hresult]
  refine execRecv_of_frame (st := .delivered) htin ?_
  rw [rxStep_terminator hi, finishFrame_terminated rest hovf hl hi hbody, hv]
  rfl

end

/-- What RXB holds after the decoding: the decoded bytes, and behind them the frame's last two bytes as received (R127). -/
theorem unstuffed_reads {s : State} {body : List Byte} (hlen : body.length = s.rxIdx.toNat) (hl : 3 ≤ s.rxIdx.toNat + 1) :
    (unstuffed s body).readBytes 0 (s.rxIdx.toNat + 1 - 2) = some (decodeFrame (body ++ [terminator])) ∧
      (unstuffed s body).read s.rxIdx.toNat = some terminator ∧
      ∀ a, s.rxIdx.toNat + 1 - 2 ≤ a → a ≠ s.rxIdx.toNat → (unstuffed s body).read a = s.rxb.read a := by
  have hraw : (decodeFrame (body ++ [terminator])).length = s.rxIdx.toNat + 1 - 2 := by simp [hlen]
  refine ⟨?_, ?_, fun a ha hne => ?_⟩
  · rw [← hraw]
    exact Memory.readBytes_writeBytes ..
  · rw [unstuffed, Memory.read_writeBytes_outside _ _ (by omega), Memory.read_write_same]
  · rw [unstuffed, Memory.read_writeBytes_outside _ _ (by omega), Memory.read_write_ne _ _ hne]

/-- The whole state in which frame completion begins. -/
theorem terminated_eq (s : State) (rest : List Byte) :
    terminated s rest = { s with tin := rest, pktValid := false, rxb := s.rxb.write s.rxIdx.toNat terminator, rxIdx := 0,
                                 rxLen := BitVec.ofNat 8 (s.rxIdx.toNat + 1) } := rfl

/-- Settles O33: frame completion's four branches, with the buffer each leaves. -/
theorem terminatorCompletesTheFrame : Obligations.TerminatorCompletesTheFrame := by
  intro s rest htin hi l
  refine ⟨fun hovf => ?_, fun hovf hl => ?_, ?_⟩
  · exact ⟨_, Memory.read_write_same .., fun _ ha => Memory.read_write_ne _ _ ha,
      (execRecv_overflowed htin hovf hi).trans (by rw [terminated_eq]; rfl)⟩
  · exact ⟨_, Memory.read_write_same .., fun _ ha => Memory.read_write_ne _ _ ha, execRecv_runt htin hovf hl⟩
  · intro body hovf hl hbody raw
    rw [show l - 1 = s.rxIdx.toNat from Nat.add_sub_cancel ..] at hbody ⊢
    obtain ⟨hdecoded, hlast, hkept⟩ := unstuffed_reads (Memory.length_of_readBytes hbody) hl
    refine ⟨unstuffed s body, hdecoded, hlast, hkept, fun hv => ?_, fun hv => ?_⟩
    · exact (execRecv_invalid htin hovf hl hi hbody hv).trans (by rw [terminated_eq]; rfl)
    · exact (execRecv_delivered htin hovf hl hi hbody hv).trans (by rw [terminated_eq]; rfl)

/-! ### An overflowed frame and the next boundary (R125, R142) -/

/-- `t` is `s` after RECEIVE has taken `n` bytes that are no terminators. -/
structure BufferedRun (s : State) (n : Nat) (t : State) : Prop where
  cfg : t.cfg = s.cfg
  rxIdx : t.rxIdx.toNat = min (s.rxIdx.toNat + n) (s.cfg.rxcap - 1)
  rxOvf : t.rxOvf = (s.rxOvf || decide (s.cfg.rxcap ≤ s.rxIdx.toNat + n))
  extractPos : t.extractPos = s.extractPos
  sendBuffer : SameSendBuffer s t
  tout : t.tout = s.tout

/-- RECEIVE takes a zero-free run of bytes from TIN, one byte a step, and is still in progress behind it. -/
theorem RecvRuns.buffers {s : State} {body rest : List Byte} (hr : RecvRuns s) (htin : s.tin = body ++ rest)
    (hfree : ∀ b ∈ body, b ≠ 0#8) (hi : s.rxIdx.toNat < s.cfg.rxcap) :
    ∃ t, runSteps body.length s = .next t ∧ RecvRuns t ∧ t.tin = rest ∧ BufferedRun s body.length t := by
  induction body generalizing s with
  | nil =>
    refine ⟨s, rfl, hr, htin, rfl, ?_, ?_, rfl, ⟨rfl, rfl⟩, rfl⟩
    · rw [List.length_nil]
      omega
    · simp [hi]
  | cons b body ih =>
    obtain ⟨hb, hfree⟩ := List.forall_mem_cons.1 hfree
    obtain ⟨t, hrun, ht, htail, hcfg, hidx, hovf, hpos, ⟨htxb, htxLen⟩, htout⟩ :=
      ih (s := buffered s b (body ++ rest)) ⟨hr.busy, hr.cmd, hr.waits⟩ rfl hfree (buffered_rxIdx_lt ..)
    rw [buffered_rxIdx_toNat, buffered_cfg] at hidx hovf
    refine ⟨t, (runSteps_succ _ (hr.step.trans (execRecv_buffered htin hb hi))).trans hrun, ht, htail, hcfg, ?_, ?_, hpos,
      ⟨htxb, htxLen⟩, htout⟩
    · rw [hidx, List.length_cons]
      omega
    · rw [hovf, buffered_rxOvf, List.length_cons, Bool.or_assoc, ← Bool.decide_or]
      exact congrArg (s.rxOvf || ·) (decide_eq_decide.2 (by omega))

/-- Settles O36: RXCAP bytes set RX_OVF, and the terminator closes the overflowed frame. -/
theorem overflowResynchronises : Obligations.OverflowResynchronises := by
  intro s body rest hruns hzero hovf htin hfree hlong
  have hcap := s.cfg.rxcap_eq
  have hidx : s.rxIdx.toNat = 0 := by rw [hzero]; rfl
  obtain ⟨t, hrun, ht, htail, hcfg, hlast, hset, hpos, ⟨htxb, htxLen⟩, htout⟩ :=
    (recvRuns_of_alone hruns).buffers htin hfree (by omega)
  have hfull : t.rxIdx.toNat + 1 = s.cfg.rxcap := by omega
  have hset : t.rxOvf = true := by simpa [hovf, hidx, hlong] using hset
  have hstep : step t = _ := ht.step.trans (execRecv_overflowed htail hset (by rw [hcfg]; omega))
  refine ⟨_, (runSteps_add 1 hrun).trans (runSteps_succ 0 hstep), rfl, rfl, rfl, by simp, by simp, rfl, by simp [hfull],
    by simp, by simpa using hpos, withSendState_eq_self ?_ ?_ ?_⟩
  · simpa using htxb
  · simpa using htxLen
  · simpa using htout

/-! ### When RECEIVE completes (R130, R166) -/

/-- Only the terminator brings a frame's outcome, which is OVERFLOW, CHECKSUM_INVALID or DELIVERED (R124 to R129). -/
theorem rxStep_outcome {b : Byte} {rest : List Byte} {s t : State} {st : Status} (h : rxStep b rest s = .ok (t, some st)) :
    b = terminator ∧ 1 ≤ st.code.toNat ∧ st.code.toNat ≤ 4 := by
  obtain ⟨-, ⟨-, -, ho, -⟩ | ⟨-, -, ho, -⟩ | ⟨hb, st', ho, hf⟩⟩ := rxStep_cases h
  · simp at ho
  · simp at ho
  · obtain rfl := Option.some.inj ho
    refine ⟨hb, ?_⟩
    obtain ⟨-, -, rfl⟩ | ⟨-, -, -, rfl⟩ | ⟨-, -, -, enc, -, ⟨-, rfl, -⟩ | ⟨-, rfl, -⟩⟩ := finishFrame_cases hf
    all_goals decide

/-- While RECEIVE runs, an iteration on a byte that ends no frame leaves it running. -/
theorem RecvRuns.of_rxStep {b : Byte} {rest : List Byte} {s t : State} (hr : RecvRuns s)
    (h : rxStep b rest s = .ok (t, none)) : RecvRuns t := by
  obtain ⟨hctx, hbusy, -⟩ := rxStep_context h
  refine ⟨(hbusy rfl).trans hr.busy, hctx.cmd.trans hr.cmd, ?_⟩
  rw [HostWaits, hctx.script, hctx.onward]
  exact hr.waits

/-- RECEIVE in a silent environment completes at the first terminator in TIN or at its end. -/
theorem RecvRuns.completes {s : State} (hr : RecvRuns s) (hinv : StateInv s) :
    ∃ k t, 1 ≤ k ∧ k ≤ s.tin.length + 1 ∧ runSteps k s = .next t ∧ t.busy = false ∧ 1 ≤ t.status.toNat ∧
      t.status.toNat ≤ 4 := by
  induction htin : s.tin generalizing s with
  | nil =>
    have hst : 1 ≤ Status.incomplete.code.toNat ∧ Status.incomplete.code.toNat ≤ 4 := by decide
    exact ⟨1, _, le_rfl, le_rfl, runSteps_succ 0 (hr.step.trans (execRecv_empty htin)), rfl, hst⟩
  | cons b rest ih =>
    obtain ⟨t, o, hstep⟩ := rxStep_answers b rest hinv
    cases o with
    | none =>
      obtain ⟨k, u, -, hk, hrun, hdone⟩ := ih (hr.of_rxStep hstep) (rxStep_keeps_inv hinv hstep) (rxStep_tin hstep).1
      exact ⟨k + 1, u, by omega, Nat.succ_le_succ hk,
        (runSteps_succ k (hr.step.trans (execRecv_of_byte htin hstep))).trans hrun, hdone⟩
    | some st =>
      refine ⟨1, _, le_rfl, by omega, runSteps_succ 0 (hr.step.trans (execRecv_of_frame htin hstep)), ?_⟩
      rw [completeRecv_eq]
      exact ⟨rfl, (rxStep_outcome hstep).2⟩

/-- Settles O37: only the block moves, so RECEIVE runs down TIN. -/
theorem recvCompletesInASilentEnvironment : Obligations.RecvCompletesInASilentEnvironment := fun _ hinv hruns =>
  (recvRuns_of_alone hruns).completes hinv

/-- A RECEIVE in progress completes in an iteration only when TIN is empty or a terminator is at its head. -/
theorem execRecv_completes {s t : State} (hbusy : s.busy = true) (h : execRecv s = .next t) (hdone : t.busy = false) :
    s.tin = [] ∨ ∃ rest, s.tin = 0#8 :: rest := by
  obtain ⟨hempty, -⟩ | ⟨b, rest, -, hr⟩ | ⟨b, rest, u, st, htin, hr, -⟩ := execRecv_cases h
  · exact .inl hempty
  · obtain ⟨-, hkept, -⟩ := rxStep_context hr
    simp [hkept rfl, hbusy] at hdone
  · exact .inr ⟨rest, by rw [htin, (rxStep_outcome hr).1, terminator]⟩

/-- The block's step with RECEIVE in progress is an iteration of its loop. -/
theorem blockStep_recv {s : State} (hbusy : s.busy = true) (hcmd : s.cmd = 0x30) : blockStep s = execRecv s := by
  have hd : decode (presented s) = .ok .recv := by rw [presented, hcmd, decode_recv]
  exact blockStep_of_decode_ok hbusy hd

/-- RECEIVE returns from a step only on a terminator or an empty TIN: no turn of the environment but `block` ends it. -/
theorem step_completes_recv {s t : State} (hbusy : s.busy = true) (hcmd : s.cmd = 0x30) (h : step s = .next t)
    (hdone : t.busy = false) : s.tin = [] ∨ ∃ rest, s.tin = 0#8 :: rest := by
  obtain hs | ⟨u, hturn⟩ := step_cases h
  · exact execRecv_completes hbusy (blockStep_recv hbusy hcmd ▸ hs) hdone
  obtain ⟨hp, hs⟩ | ⟨c, -, hidle, -⟩ | ⟨-, hidle, -⟩ | ⟨b, hp, rfl⟩ | ⟨hp, rfl⟩ := hturn
  · obtain ⟨ts, o, rfl⟩ := State.pending_some hp
    rw [blockStep_recv (s := (s.setScript ts).setOnward o) hbusy hcmd] at hs
    exact execRecv_completes (s := (s.setScript ts).setOnward o) hbusy hs hdone
  · simp [hbusy] at hidle
  · simp [hbusy] at hidle
  · obtain ⟨ts, o, rfl⟩ := State.pending_some hp
    simp [hbusy] at hdone
  · obtain ⟨ts, o, rfl⟩ := State.pending_some hp
    simp [hbusy] at hdone

/-! ### RECEIVE without end (R166) -/

/-- RECEIVE is in progress without a terminator in TIN, and the environment feeds it the bytes `bs` again and again: the
bytes `cs` are left of the present round, and a byte is in TIN when the next turn lets the block step. -/
structure Fed (bs : List Byte) (s : State) : Prop where
  busy : s.busy = true
  cmd : s.cmd = 0x30
  room : s.rxIdx.toNat < s.cfg.rxcap
  zeroFree : ∀ b ∈ s.tin, b ≠ 0#8
  onward : s.onward = .cycle (feedTurns bs)
  turns : ∃ cs, (∀ b ∈ cs, b ≠ 0#8) ∧ (s.script = feedTurns cs ∨ s.script = .block :: feedTurns cs ∧ s.tin ≠ [])

/-- Between two bytes of a round, and between two rounds, the next byte arrives and the block's turn comes behind it. -/
theorem pending_of_feedTurns {s : State} {bs cs : List Byte} (hne : bs ≠ []) (hbs : ∀ b ∈ bs, b ≠ 0#8)
    (hcs : ∀ b ∈ cs, b ≠ 0#8) (hs : s.script = feedTurns cs) (ho : s.onward = .cycle (feedTurns bs)) :
    ∃ b ds, b ≠ 0#8 ∧ (∀ d ∈ ds, d ≠ 0#8) ∧ s.pending = some (.arrive b, s.setScript (.block :: feedTurns ds)) := by
  cases cs with
  | cons c cs =>
    obtain ⟨hc, hcs⟩ := List.forall_mem_cons.1 hcs
    exact ⟨c, cs, hc, hcs, State.pending_script hs⟩
  | nil =>
    obtain ⟨b, bs, rfl⟩ := List.exists_cons_of_ne_nil hne
    obtain ⟨hb, hbs⟩ := List.forall_mem_cons.1 hbs
    exact ⟨b, bs, hb, hbs, State.pending_cycle hs ho⟩

/-- A step of a fed RECEIVE leaves it fed, and does not close an overflowed frame. -/
theorem Fed.step {bs : List Byte} {s : State} (h : Fed bs s) (hne : bs ≠ []) (hbs : ∀ b ∈ bs, b ≠ 0#8) :
    ∃ t, step s = .next t ∧ Fed bs t ∧ (s.rxOvf = true → t.rxOvf = true) := by
  obtain ⟨hbusy, hcmd, hroom, hfree, honward, cs, hcs, hfeed | ⟨hblock, hwaiting⟩⟩ := h
  · obtain ⟨b, ds, hb, hds, hp⟩ := pending_of_feedTurns hne hbs hcs hfeed honward
    have hfree' : ∀ c ∈ s.tin ++ [b], c ≠ 0#8 := List.forall_mem_append.2 ⟨hfree, by simpa using hb⟩
    refine ⟨_, step_arrive hp, ?_, id⟩
    exact ⟨hbusy, hcmd, hroom, hfree', honward, ds, hds, .inr ⟨rfl, by simp⟩⟩
  · obtain ⟨b, rest, htin⟩ := List.exists_cons_of_ne_nil hwaiting
    rw [htin] at hfree
    obtain ⟨hb, hfree⟩ := List.forall_mem_cons.1 hfree
    have hstep : Machine.step s = .next (buffered (s.setScript (feedTurns cs)) b rest) := by
      rw [step_of_blockMoves hbusy (.inr (.inr (.inr (State.pending_script hblock)))),
        blockStep_recv (s := s.setScript (feedTurns cs)) hbusy hcmd]
      exact execRecv_buffered htin hb hroom
    refine ⟨_, hstep, ?_, fun hovf => by simp [hovf]⟩
    exact ⟨by simpa, by simpa, buffered_rxIdx_lt .., by simpa, by simpa, cs, hcs, .inl (by simp)⟩

/-- A fed RECEIVE stays in progress, however long the run is. -/
theorem Fed.run {bs : List Byte} {s : State} (h : Fed bs s) (hne : bs ≠ []) (hbs : ∀ b ∈ bs, b ≠ 0#8) (k : Nat) :
    ∃ t, runSteps k s = .next t ∧ Fed bs t ∧ (s.rxOvf = true → t.rxOvf = true) := by
  induction k generalizing s with
  | zero => exact ⟨s, rfl, h, id⟩
  | succ k ih =>
    obtain ⟨u, hstep, hu, hovf⟩ := h.step hne hbs
    obtain ⟨t, hrun, ht, hovf'⟩ := ih hu
    exact ⟨t, (runSteps_succ k hstep).trans hrun, ht, hovf' ∘ hovf⟩

/-- Settles O60: the only two ways out of RECEIVE, and an environment that keeps both closed. -/
theorem recvRunsForEverWhileFed : Obligations.RecvRunsForEverWhileFed := by
  refine ⟨fun s t => step_completes_recv, fun s bs hbusy hcmd hroom hfree hne hbs hscript honward k => ?_⟩
  have hstart : Fed bs s := ⟨hbusy, hcmd, hroom, hfree, honward, [], nofun, .inl hscript⟩
  obtain ⟨t, hrun, ht, hovf⟩ := hstart.run hne hbs k
  exact ⟨t, hrun, ht.busy, ht.cmd, hovf⟩

/-! ### Typed extraction (R133 to R135) -/

/-- Settles O39: a 1-byte image passes the reverser. -/
theorem extf1ReadsOneByte : Obligations.Extf1ReadsOneByte := by
  refine fun s => ⟨decode_of_not_readsArg (i := .extf1) rfl, extractField_noPacket (w := .w1),
    extractField_outOfData (w := .w1), fun b hv hp hc hb => ?_⟩
  have hread : s.rxb.readBytes s.extractPos.toNat 1 = some [b] := Memory.readBytes_cons.2 ⟨hb, rfl⟩
  rw [← ofLanes_one]
  exact extractField_field (w := .w1) hv hp hc hread

/-- RESULT of a 2-byte field: REV = 1 swaps its bytes (R107, R134). -/
theorem ofLanes_reverseField_two (rev : Bool) (b0 b1 : Byte) :
    ofLanes (reverseField rev .w2 [b0, b1]) = (if rev then b0 ++ b1 else b1 ++ b0).setWidth 32 := by
  cases rev with
  | false => exact ofLanes_two b0 b1
  | true => exact ofLanes_two b1 b0

/-- RESULT of a 4-byte field: REV = 1 reverses its bytes (R107, R135). -/
theorem ofLanes_reverseField_four (rev : Bool) (b0 b1 b2 b3 : Byte) :
    ofLanes (reverseField rev .w4 [b0, b1, b2, b3]) =
      if rev then b0 ++ b1 ++ b2 ++ b3 else b3 ++ b2 ++ b1 ++ b0 := by
  cases rev with
  | false => exact ofLanes_four b0 b1 b2 b3
  | true => exact ofLanes_four b3 b2 b1 b0

/-- Settles O40: EXTRACT_FIELD of width 2, with the lanes of RESULT written out. -/
theorem extf2ReadsTwoBytes : Obligations.Extf2ReadsTwoBytes := by
  refine fun s => ⟨decode_of_not_readsArg (i := .extf2) rfl, extractField_noPacket (w := .w2),
    extractField_outOfData (w := .w2), fun b0 b1 hv hp hc hbs => ?_⟩
  rw [← ofLanes_reverseField_two]
  exact extractField_field (w := .w2) hv hp hc hbs

/-- Settles O41: EXTRACT_FIELD of width 4, with the lanes of RESULT written out. -/
theorem extf4ReadsFourBytes : Obligations.Extf4ReadsFourBytes := by
  refine fun s => ⟨decode_of_not_readsArg (i := .extf4) rfl, extractField_noPacket (w := .w4),
    extractField_outOfData (w := .w4), fun b0 b1 b2 b3 hv hp hc hbs => ?_⟩
  rw [← ofLanes_reverseField_four]
  exact extractField_field (w := .w4) hv hp hc hbs

/-! ### The send path and the receive path share no state (R123, R131) -/

theorem addField_withReceiveState {w : Width} {arg : Word} {s t : State} (r : State) (h : addField w arg s = .next t) :
    addField w arg (withReceiveState s r) = .next (withReceiveState t r) := by
  obtain ⟨hfull, rfl⟩ | ⟨hroom, rfl⟩ := addField_cases h
  · exact addField_full (s := withReceiveState s r) hfull
  · exact addField_room (s := withReceiveState s r) hroom

theorem execSend_withReceiveState {s t : State} (r : State) (h : execSend s = .next t) :
    execSend (withReceiveState s r) = .next (withReceiveState t r) := by
  obtain ⟨hfull, rfl⟩ | ⟨hroom, fields, hfields, rfl⟩ := execSend_cases h
  · exact execSend_full (s := withReceiveState s r) hfull
  · exact execSend_room (s := withReceiveState s r) hroom hfields

/-- Settles O47: by the command, ADD_FIELD of each width or SEND. -/
theorem sendPathIgnoresReceiveState : Obligations.SendPathIgnoresReceiveState := by
  intro i s t r hi h
  cases i with
  | addf1 arg | addf2 arg | addf4 arg => exact addField_withReceiveState r h
  | send => exact execSend_withReceiveState r h
  | recv | extf1 | extf2 | extf4 | rdreg _ => simp [sendSide] at hi

/-- Inside the payload EXTRACT_FIELD answers exactly what MemRead does (R132). -/
theorem extractField_inside {w : Width} {s t : State} (hv : s.pktValid = true)
    (hp : s.extractPos.toNat + widthBytes w ≤ s.rxLen.toNat) :
    extractField w s = .next t ↔ ∃ bs, memRead s.rxb s.cfg.rxcap s.extractPos.toNat (widthBytes w) = .ok bs ∧
      t = (s.setExtractPos (s.extractPos.toNat + widthBytes w)).respond .ok (ofLanes (reverseField s.cfg.rev w bs)) := by
  simp only [extractField, hv, Bool.true_eq_false, if_false, not_lt.mpr hp, orFault_next, Host.Outcome.next.injEq,
    eq_comm (b := t)]

theorem extractField_withSendState {w : Width} {s t : State} (r : State) (h : extractField w s = .next t) :
    extractField w (withSendState s r) = .next (withSendState t r) := by
  obtain ⟨hv, rfl⟩ | ⟨hv, hp, rfl⟩ | ⟨hv, hp, -⟩ := extractField_cases h
  · exact extractField_noPacket (s := withSendState s r) hv
  · exact extractField_outOfData (s := withSendState s r) hv hp
  · obtain ⟨bs, hread, rfl⟩ := (extractField_inside hv hp).1 h
    exact (extractField_inside (s := withSendState s r) hv hp).2 ⟨bs, hread, rfl⟩

/-- Frame completion reads nothing of the send state (R125 to R129). -/
theorem finishFrame_withSendState {l : Nat} {s u : State} {st : Status} (r : State) (h : finishFrame l s = .ok (u, st)) :
    finishFrame l (withSendState s r) = .ok (withSendState u r, st) := by
  obtain ⟨ho, rfl, rfl⟩ | ⟨ho, hl, rfl, rfl⟩ | ⟨ho, hl, hc, enc, he, hend⟩ := finishFrame_cases h
  · exact finishFrame_overflow (s := withSendState s r) ho
  · exact finishFrame_runt ho hl
  · rw [finishFrame_decoded (s := withSendState s r) ho hl hc he]
    obtain ⟨hv, rfl, rfl⟩ | ⟨hv, rfl, rfl⟩ := hend
    · exact if_pos hv
    · exact if_neg (by simp [hv])

/-- The micro-step reads nothing of the send state (R124). -/
theorem rxStep_withSendState {b : Byte} {rest : List Byte} {s t : State} {o : Option Status} (r : State)
    (h : rxStep b rest s = .ok (t, o)) : rxStep b rest (withSendState s r) = .ok (withSendState t r, o) := by
  obtain ⟨hi, ⟨hb, hlt, rfl, rfl⟩ | ⟨hb, hlast, rfl, rfl⟩ | ⟨rfl, st, rfl, hf⟩⟩ := rxStep_cases h
  · rw [rxStep_byte (s := withSendState s r) hb hi]
    exact if_pos hlt
  · rw [rxStep_byte (s := withSendState s r) hb hi]
    exact if_neg (Nat.not_lt.2 hlast.ge)
  · have hterm : terminated (withSendState s r) rest = withSendState (terminated s rest) r := rfl
    have hidx : (withSendState s r).rxIdx = s.rxIdx := rfl
    rw [rxStep_terminator (s := withSendState s r) hi, hterm, hidx, finishFrame_withSendState r hf]

theorem execRecv_withSendState {s t : State} (r : State) (h : execRecv s = .next t) :
    execRecv (withSendState s r) = .next (withSendState t r) := by
  obtain ⟨hempty, rfl⟩ | ⟨b, rest, htin, hr⟩ | ⟨b, rest, u, st, htin, hr, rfl⟩ := execRecv_cases h
  · exact execRecv_empty (s := withSendState s r) hempty
  · exact execRecv_of_byte (s := withSendState s r) htin (rxStep_withSendState r hr)
  · rw [execRecv_of_frame (s := withSendState s r) htin (rxStep_withSendState r hr), completeRecv_eq, completeRecv_eq]
    rfl

/-- Settles O48: by the command, RECEIVE or EXTRACT_FIELD of each width. -/
theorem receivePathIgnoresSendState : Obligations.ReceivePathIgnoresSendState := by
  intro i s t r hi h
  cases i with
  | recv => exact execRecv_withSendState r h
  | extf1 | extf2 | extf4 => exact extractField_withSendState r h
  | addf1 _ | addf2 _ | addf4 _ | send | rdreg _ => simp [receiveSide] at hi

end Sys2Proof.Machine

/-! PROOFS. The statement of spec/45_register_access.md: the bits of the six readout registers, and what RDREG answers. -/

namespace Sys2Proof.Machine

/-! ### The bits of CONFIG and FLAGS (R28, R138) -/

/-- CAP is at most 252, so that CAP and RXCAP fit in their eight bits (R6, R8). -/
theorem configWord_cap (c : Config) : ((configWord c).extractLsb' 0 8).toNat = c.capacity := by
  have hfits : c.capacity < 2 ^ 8 := c.cap.isLt.trans (by decide)
  have hfield : (configWord c).extractLsb' 0 8 = BitVec.ofNat 8 c.capacity := BitVec.extractLsb'_append_eq_right
  rw [hfield, BitVec.toNat_ofNat, Nat.mod_eq_of_lt hfits]

theorem configWord_rev (c : Config) : (configWord c).getLsbD 8 = c.rev := by
  rw [configWord, BitVec.getLsbD_append, BitVec.getLsbD_append]
  simp

/-- Above CAP and REV stand seven zero bits, RXCAP and eight zero bits (R138). -/
theorem configWord_extractLsb' (c : Config) (start len : Nat) (h : 9 ≤ start) :
    (configWord c).extractLsb' start len = (0#8 ++ BitVec.ofNat 8 c.rxcap ++ 0#7).extractLsb' (start - 9) len := by
  rw [configWord, BitVec.extractLsb'_append_eq_of_le (by omega), BitVec.extractLsb'_append_eq_of_le (by omega), Nat.sub_sub]

theorem configWord_rxcap (c : Config) : ((configWord c).extractLsb' 16 8).toNat = c.capacity + 2 := by
  have hfits : c.rxcap < 2 ^ 8 := (Nat.add_lt_add_right c.cap.isLt 2).trans (by decide)
  have hfield : (configWord c).extractLsb' 16 8 = BitVec.ofNat 8 c.rxcap :=
    calc (configWord c).extractLsb' 16 8
      _ = (0#8 ++ BitVec.ofNat 8 c.rxcap ++ 0#7).extractLsb' 7 8 := configWord_extractLsb' c 16 8 (by decide)
      _ = (0#8 ++ BitVec.ofNat 8 c.rxcap).extractLsb' 0 8 := BitVec.extractLsb'_append_eq_of_le le_rfl
      _ = BitVec.ofNat 8 c.rxcap := BitVec.extractLsb'_append_eq_right
  rw [hfield, BitVec.toNat_ofNat, Nat.mod_eq_of_lt hfits, Config.rxcap]

theorem configWord_low_zeros (c : Config) : (configWord c).extractLsb' 9 7 = 0#7 :=
  (configWord_extractLsb' c 9 7 le_rfl).trans BitVec.extractLsb'_append_eq_right

theorem configWord_high_zeros (c : Config) : (configWord c).extractLsb' 24 8 = 0#8 :=
  calc (configWord c).extractLsb' 24 8
    _ = (0#8 ++ BitVec.ofNat 8 c.rxcap ++ 0#7).extractLsb' 15 8 := configWord_extractLsb' c 24 8 (by decide)
    _ = (0#8 ++ BitVec.ofNat 8 c.rxcap).extractLsb' 8 8 := BitVec.extractLsb'_append_eq_of_le (by decide)
    _ = 0#8 := BitVec.extractLsb'_append_eq_left

theorem flagsWord_bits (s : State) :
    (flagsWord s).getLsbD 0 = s.rxOvf ∧ (flagsWord s).getLsbD 1 = s.pktValid ∧ (flagsWord s).extractLsb' 2 30 = 0#30 := by
  refine ⟨?_, ?_, ?_⟩
  · rw [flagsWord, BitVec.getLsbD_setWidth, BitVec.getLsbD_append]
    simp
  · rw [flagsWord, BitVec.getLsbD_setWidth, BitVec.getLsbD_append]
    simp
  · ext i hi
    simp [flagsWord]

/-! ### What RDREG answers (R137) -/

/-- RDREG of an assigned register number (R137). -/
theorem execRdreg_assigned {s : State} {arg v : Word} (h : regValue s (arg.toNat % 256) = some v) :
    execRdreg arg s = .next (s.respond .ok v) := by
  rw [execRdreg, regNumber_eq, h]

/-- RDREG of an unassigned register number (R137). -/
theorem execRdreg_unassigned {s : State} {arg : Word} (h : regValue s (arg.toNat % 256) = none) :
    execRdreg arg s = .next (s.raise .illegalCommand) := by
  rw [execRdreg, regNumber_eq, h]

/-- Settles O43: a register number is assigned exactly up to 5, and RESULT is the register it names. -/
theorem registerReadout : Obligations.RegisterReadout := by
  intro s arg r
  have hassigned := regValue_isSome s r
  refine ⟨Laws.RoundTrip.rdreg arg, fun hr => ?_, fun hr => ?_⟩
  · obtain ⟨v, hv⟩ := Option.isSome_iff_exists.1 (hassigned.trans (decide_eq_true hr))
    have hnames (k : Nat) (w : Word) (hw : regValue s k = some w) (hk : r = k) : w = v :=
      Option.some.inj (hw.symm.trans (hk ▸ hv))
    refine ⟨v, execRdreg_assigned hv, fun h => ?_, fun h => (hnames 1 _ rfl h).symm, fun h => (hnames 2 _ rfl h).symm,
      fun h => (hnames 3 _ rfl h).symm, fun h => (hnames 4 _ rfl h).symm, fun h => ?_⟩
    · obtain rfl := hnames 0 (configWord s.cfg) rfl h
      exact ⟨configWord_cap _, configWord_rev _, configWord_low_zeros _, configWord_rxcap _, configWord_high_zeros _⟩
    · obtain rfl := hnames 5 (flagsWord s) rfl h
      exact flagsWord_bits s
  · have hnone : regValue s r = none :=
      Option.not_isSome_iff_eq_none.1 (by simp [hassigned, hr])
    exact execRdreg_unassigned hnone

end Sys2Proof.Machine

/-! PROOFS. The statements of spec/60_exceptions.md that are about the status column of its command table. -/

namespace Sys2Proof.Machine

/-! ### Which statuses each command answers (R140) -/

/-- ADD_FIELD answers OK or CAPACITY_EXCEEDED (R113). -/
theorem addField_status_mem {w : Width} {arg : Word} {s t : State} (h : addField w arg s = .next t) :
    t.status ∈ [0#4, 5#4] := by
  obtain ⟨-, rfl⟩ | ⟨-, rfl⟩ := addField_cases h <;> simp [Status.code]

/-- SEND answers OK or CAPACITY_EXCEEDED (R117). -/
theorem execSend_status_mem {s t : State} (h : execSend s = .next t) : t.status ∈ [0#4, 5#4] := by
  obtain ⟨-, rfl⟩ | ⟨-, fields, -, rfl⟩ := execSend_cases h <;> simp [Status.code]

/-- EXTRACT_FIELD answers OK, NO_PACKET or OUT_OF_DATA (R132). -/
theorem extractField_status_mem {w : Width} {s t : State} (h : extractField w s = .next t) :
    t.status ∈ [0#4, 6#4, 7#4] := by
  obtain ⟨-, rfl⟩ | ⟨-, -, rfl⟩ | ⟨-, -, bs, -, rfl⟩ := extractField_cases h <;> simp [Status.code]

/-- RDREG answers OK or ILLEGAL_COMMAND (R137). -/
theorem execRdreg_status_mem {arg : Word} {s t : State} (h : execRdreg arg s = .next t) : t.status ∈ [0#4, 8#4] := by
  obtain ⟨v, -, rfl⟩ | ⟨-, rfl⟩ := execRdreg_cases h <;> simp [Status.code]

/-- The codes of RECEIVE's column are those from INCOMPLETE to DELIVERED (R140). -/
theorem mem_receive_codes {c : BitVec 4} (hlow : 1 ≤ c.toNat) (hhigh : c.toNat ≤ 4) : c ∈ [1#4, 2#4, 3#4, 4#4] := by
  revert c
  decide

/-- RECEIVE completes with INCOMPLETE or with a frame's outcome; on any other byte it stays in progress (R130). -/
theorem execRecv_status_mem {s t : State} (hbusy : s.busy = true) (h : execRecv s = .next t) (hdone : t.busy = false) :
    t.status ∈ [1#4, 2#4, 3#4, 4#4] := by
  obtain ⟨-, rfl⟩ | ⟨b, rest, -, hr⟩ | ⟨b, rest, u, st, -, hr, rfl⟩ := execRecv_cases h
  · simp [Status.code]
  · obtain ⟨-, hstays, -⟩ := rxStep_context hr
    simp [hstays rfl, hbusy] at hdone
  · obtain ⟨-, hlow, hhigh⟩ := rxStep_outcome hr
    rw [completeRecv_eq, State.respond_status]
    exact mem_receive_codes hlow hhigh

/-- Settles O45: each command's column, by the four kinds of command. -/
theorem statusesByCommand : Obligations.StatusesByCommand := by
  intro i s t hbusy h hdone
  refine ⟨fun hsend => ?_, ?_, ?_, ?_⟩
  · cases i with
    | addf1 _ | addf2 _ | addf4 _ => exact addField_status_mem h
    | send => exact execSend_status_mem h
    | recv | extf1 | extf2 | extf4 | rdreg _ => cases hsend
  · rintro rfl
    exact execRecv_status_mem hbusy h hdone
  · rintro (rfl | rfl | rfl) <;> exact extractField_status_mem h
  · rintro arg rfl
    exact execRdreg_status_mem h

end Sys2Proof.Machine

/-! PROOFS. The statement of spec/70_reset_and_hazards.md that is about a reset turn. -/

namespace Sys2Proof.Machine

/-- A reset turn that comes between two commands is taken (R160). -/
theorem step_reset {s u : State} (hb : s.busy = false) (hp : s.pending = some (.reset, u)) :
    step s = .next u.afterReset := by
  simp [step, turn, hp, hb]

/-- Settles O9: the six reset values are those of R29, and taking the turn changes nothing but which turns are to come. -/
theorem resetTurnClearsRegisters : Obligations.ResetTurnClearsRegisters := by
  intro s u hidle hp
  obtain ⟨htxLen, hrxIdx, hrxOvf, hrxLen, hextractPos, hpktValid⟩ := resetValues u.cfg
  refine ⟨u.afterReset, step_reset hidle hp, htxLen, hrxIdx, hrxOvf, hrxLen, hextractPos, hpktValid, ?_⟩
  obtain ⟨ts, o, rfl⟩ := State.pending_some hp
  simp

end Sys2Proof.Machine
